-- ==== Sys2Proof/Word.lean ====
section
/-! DEFINITION. The machine's words: Word, Byte, the 16-bit command word, and the 4-tuple of lanes. -/

namespace Sys2Proof

/-- "An unsigned 64-bit integer. All arithmetic is modulo 2^64" (00_scope.md R9). -/
abbrev Word := BitVec 64

/-- A byte, an integer 0..255 (00_scope.md R12). -/
abbrev Byte := BitVec 8

/-- The value on the command port `CW` (30_encoding.md R70, R81). -/
abbrev CommandWord := BitVec 16

/-- The tuple `S = (s0, s1, s2, s3)` of lane registers (10_state.md R20). `s0, s1` are the rate,
`s2, s3` the capacity (R21). -/
structure Lanes where
  s0 : Word
  s1 : Word
  s2 : Word
  s3 : Word
  deriving DecidableEq, Repr

end Sys2Proof
end

