-- ==== Sys2Proof/Syntax.lean ====
section
/-! DEFINITION. The instructions: one constructor for each row of spec/opcode_table.json
(30_encoding.md R71). -/

namespace Sys2Proof

/-- The four commands. Only UPD has an operand, the input byte, any of its 256 values (R72). -/
inductive Instr where
  /-- `NEW` (42_sponge_commands.md R131). -/
  | new
  /-- `UPD b` (R132). -/
  | upd (b : Byte)
  /-- `FIN256` (R140). -/
  | fin256
  /-- `FIN512` (R145). -/
  | fin512
  deriving DecidableEq, Repr

end Sys2Proof
end

