-- ==== Sys2Proof/WellFormed.lean ====
section
/-! DEFINITION. The command format `C` (30_encoding.md R70) and the two checks that make a pair of
fields a legal command (R71 to R73). -/

namespace Sys2Proof

/-- The fields of format `C`: `op = CW[15:8]`, `imm8 = CW[7:0]` (30_encoding.md R70). -/
structure CommandFields where
  op   : Byte
  imm8 : Byte
  deriving DecidableEq, Repr

/-- The opcode byte is one of the four of R71; `0x04..0xFF` are reserved (R73). -/
def CommandFields.opcodeDefined (f : CommandFields) : Bool := decide (f.op.toNat ≤ 3)

/-- "imm8 is used only by UPD"; for the other commands it "must be 0x00" (R72, R73). -/
def CommandFields.operandLegal (f : CommandFields) : Bool := f.op == 0x01#8 || f.imm8 == 0x00#8

/-- The fields are those of a legal command: the words that fail are reserved (R73). -/
def CommandFields.wellFormed (f : CommandFields) : Bool := f.opcodeDefined && f.operandLegal

/-- The fields an instruction is written with (R71). -/
def Instr.fields : Instr → CommandFields
  | .new    => ⟨0x00#8, 0x00#8⟩
  | .upd b  => ⟨0x01#8, b⟩
  | .fin256 => ⟨0x02#8, 0x00#8⟩
  | .fin512 => ⟨0x03#8, 0x00#8⟩

/-- An instruction is well formed when its fields are: the type of the operand already admits exactly
the 256 legal bytes (R72), so this holds of every `Instr` (Laws/PerInstr.lean). -/
def Instr.wellFormed (i : Instr) : Bool := i.fields.wellFormed

end Sys2Proof
end

