-- ==== Sys2Proof/Decode.lean ====
section
/-! DEFINITION. The decoder of the 16-bit command word, the encoder, and the opcode table as the spec
prints it (30_encoding.md R70 to R73, spec/opcode_table.json). -/

namespace Sys2Proof

/-- Why a command word is reserved (30_encoding.md R73). Both raise ILLEGAL (60_exceptions.md R170). -/
inductive Reserved where
  /-- `op` in `0x04..0xFF`, any `imm8`. -/
  | opcode
  /-- `op` in `0x00, 0x02, 0x03` with `imm8 != 0x00`. -/
  | operand
  deriving DecidableEq, Repr

/-- What the decoder makes of a word: one of the 259 legal commands or a reserved word (R73). -/
inductive Decoded where
  | command (i : Instr)
  | reserved (why : Reserved)
  deriving DecidableEq, Repr

/-- The fields `op = CW[15:8]` and `imm8 = CW[7:0]` (R70). -/
def splitCommand (w : CommandWord) : CommandFields := ⟨w.extractLsb' 8 8, w.extractLsb' 0 8⟩

/-- A command without operand: its `imm8` must be `0x00` (R72, R73). -/
def withoutOperand (imm8 : Byte) (i : Instr) : Decoded :=
  if imm8 = 0x00#8 then .command i else .reserved .operand

/-- The opcode map (R71). -/
def decodeFields (f : CommandFields) : Decoded :=
  match f.op.toNat with
  | 0 => withoutOperand f.imm8 .new
  | 1 => .command (.upd f.imm8)
  | 2 => withoutOperand f.imm8 .fin256
  | 3 => withoutOperand f.imm8 .fin512
  | _ => .reserved .opcode

/-- The decoder, total on the 65536 words (R73). -/
def decode (w : CommandWord) : Decoded := decodeFields (splitCommand w)

/-- The command word of an instruction (R71). -/
def encode : Instr → CommandWord
  | .new    => 0x0000#16
  | .upd b  => 0x01#8 ++ b
  | .fin256 => 0x0200#16
  | .fin512 => 0x0300#16

/-- One row of spec/opcode_table.json: a word `w` selects it when `w AND mask = pattern` (R71; the
table's column is called match). -/
structure OpcodeRow where
  mnemonic : String
  pattern  : CommandWord
  mask     : CommandWord
  deriving DecidableEq, Repr

/-- "A command word `w` selects the row with `(w AND mask) = match`" (R71). -/
def OpcodeRow.selects (r : OpcodeRow) (w : CommandWord) : Bool := w &&& r.mask == r.pattern

/-- The complete opcode map as mask and match (R71). -/
def opcodeTable : List OpcodeRow :=
  [⟨"NEW", 0x0000#16, 0xFFFF#16⟩, ⟨"UPD", 0x0100#16, 0xFF00#16⟩,
   ⟨"FIN256", 0x0200#16, 0xFFFF#16⟩, ⟨"FIN512", 0x0300#16, 0xFFFF#16⟩]

/-- The mnemonic of an instruction (R71, R75). -/
def Instr.mnemonic : Instr → String
  | .new    => "NEW"
  | .upd _  => "UPD"
  | .fin256 => "FIN256"
  | .fin512 => "FIN512"

/-- The instruction this decoder reads from a word numbered as spec/opcode_table.json numbers it: a
command is one 16-bit value on a 16-bit port and has no byte order of its own (R70). -/
def decodeTableWord (nbits w : Nat) : Option Instr :=
  match decode (BitVec.ofNat 16 (w % 2 ^ nbits)) with
  | .command i  => some i
  | .reserved _ => none

end Sys2Proof
end

