-- ==== Sys2Proof/Config.lean ====
section
/-! DEFINITION. What one realisation fixes and the spec leaves a named parameter: the IV and the two
domain tags. Their default VALUES stand in Machine/Params.lean. The spec leaves no value of a running
machine open, so there is no free value here. -/

namespace Sys2Proof

/-- The named parameters of the design: `IV` (00_scope.md R6) and `TAG256`, `TAG512` (R7). -/
structure Config where
  iv     : Lanes
  tag256 : Word
  tag512 : Word
  deriving DecidableEq, Repr

/-- "Implementations MUST use distinct tags per output length" (00_scope.md R7). -/
abbrev Config.TagsDistinct (c : Config) : Prop := c.tag256 ≠ c.tag512

end Sys2Proof
end

