-- ==== Sys2Proof/Machine/Params.lean ====
section
/-! DEFINITION. The constants of the design (00_scope.md R5) and the default values of its named
parameters (R6, R7). -/

namespace Sys2Proof.Machine

/-- The default `IV`: the first 256 fractional bits of the square root of 2, most significant word to
`IV0` (00_scope.md R6, decision D11). UNVERIFIED: the document prints no literal and its vectors do not
confirm this one (log 1). -/
def defaultIV : Lanes :=
  ⟨0x6A09E667F3BCC908#64, 0xB2FB1366EA957D3E#64, 0x3ADEC17512775099#64, 0xDA2F590B0667322A#64⟩

/-- The default parameters, those of the instance `State.reset` (log 15). UNVERIFIED: the tags are the printed, "representative"
values (R5, R7, decision D13; log 2). -/
def config : Config := ⟨defaultIV, 0x0000000000000100#64, 0x0000000000000200#64⟩

/-- `RATE_BYTES`: the bytes absorbed per block, and the size of `B` (R5, 10_state.md R23). -/
def rateBytes : Nat := 16

/-- `DIGEST256_BYTES`: the bytes of one squeeze (R5). -/
def squeezeBytes : Nat := 32

/-- The size of `D`, `DIGEST512_BYTES` (R5, 10_state.md R28). -/
def digestBytes : Nat := 64

/-- `R`: the lattice steps of one `PHI` invocation (R5). -/
def rounds : Nat := 8

/-- `H = 2^63`, "the half-range boundary" of f (R5). -/
def halfRange : Word := 0x8000000000000000#64

/-- `PAD`, the single padding byte (R5). -/
def padByte : Byte := 0x01#8

end Sys2Proof.Machine
end

