-- ==== Sys2Proof/Machine/State.lean ====
section
/-! DEFINITION. The state of one instance of block SPONGE (10_state.md), the model's own input list, the
reasons a step can stop, and the state after reset (10_state.md R35, 70_reset_and_hazards.md R200). -/

namespace Sys2Proof.Machine

/-- The bytes of a byte space (20_memory.md R50) as (address, byte) pairs. The canonical form: addresses
strictly rising, no byte equal to what an unlisted address reads as (Machine/Ops.lean: Memory.wf). -/
abbrev Memory := List Host.Cell

/-- `PH`, the phase of the hasher lifecycle (10_state.md R25): 0 ABSORBING, 1 CONSUMED. -/
inductive Phase where
  | absorbing
  | consumed
  deriving DecidableEq, Repr

/-- The response to a command: `OK`, or `FAULT` with the 2-bit code (30_encoding.md R74). -/
inductive Response where
  | ok
  | fault (code : BitVec 2)
  deriving DecidableEq, Repr

/-- What the host can do to the instance: assert the `RST` port, or present a command word on the `CW`
port (30_encoding.md R81). -/
inductive HostEvent where
  | reset
  | command (cw : CommandWord)
  deriving DecidableEq, Repr

/-- Why the machine stops with a fault. MISUSE and ILLEGAL are no such stop: they are taken as the spec
describes, into a next state (60_exceptions.md R172). -/
inductive Fault where
  /-- UPD, FIN256 or FIN512 finds `n >= 16`, so that it would store outside `B[0..15]`, an index the spec
  says cannot be formed (20_memory.md R50) and a count it excludes between commands (10_state.md R24).
  Raised by Machine/Ops.lean hasherCommand. DEDUCED; safe (log 8). -/
  | bufferIndex
  deriving DecidableEq, Repr

/-- Why the model refuses an instruction. -/
inductive Refusal where
  /-- An instruction with no meaning yet; raised by an arm of exec. Every arm has its meaning, so nothing
  raises it. Safe. -/
  | notModelled (mnemonic : String)
  deriving DecidableEq, Repr

/-- The state of one instance (10_state.md), the response on its `RESP` port, what its host will present,
and the parameters it is built with. -/
structure State where
  /-- `S`, the lane registers (R20). -/
  lanes : Lanes
  /-- `B[0..15]`, the input buffer, stale bytes included (R23). -/
  buf   : Memory
  /-- `n`, the count of valid buffer bytes (R24). -/
  n     : BitVec 5
  /-- `PH` (R25). -/
  phase : Phase
  /-- `ERR`, the sticky fault flag (R26). -/
  err   : Bool
  /-- `ERRC`, the code of the first fault (R27). -/
  errc  : BitVec 2
  /-- `D[0..63]`, the digest register (R28). -/
  dig   : Memory
  /-- `DLC`, the digest length code (R29). -/
  dlc   : BitVec 2
  /-- `RESP`, the response to the command just executed (30_encoding.md R74, R81); none while no command
  has been answered since reset (log 5). -/
  resp  : Option Response
  /-- The model's own: the events the host has yet to present, the next one first (log 6). The hardware
  has no queue (70_reset_and_hazards.md R202). -/
  input : List HostEvent
  /-- The model's own: the parameters this instance is built with (00_scope.md R6, R7), constants that no
  step writes. Standing here, they make `exec` and `step` those of every choice of them (DESIGN CHOICE, log
  15). -/
  params : Config
  deriving DecidableEq, Repr

/-- The state after reset of a machine built with the parameters `c` (10_state.md R35). DESIGN CHOICE:
the bytes of `B`, unspecified in the spec, are 0x00 (log 4); no response, no pending event (logs 5, 6). -/
def State.resetWith (c : Config) : State where
  lanes := c.iv
  buf   := []
  n     := 0#5
  phase := .absorbing
  err   := false
  errc  := 0#2
  dig   := []
  dlc   := 0#2
  resp  := none
  input := []
  params := c

/-- The machine right after reset (70_reset_and_hazards.md R200), built with the default parameters (logs 1,
2). -/
def State.reset : State := State.resetWith config

end Sys2Proof.Machine
end

