-- ==== Sys2Proof/Machine/Ops.lean ====
section
/-! DEFINITION. The named operations: bytes of `B` and `D`, the one home of each register's write, taking
a fault, refusing, reset, and the checks every command begins with. -/

namespace Sys2Proof.Machine

/-! ### The byte spaces (20_memory.md R50) -/

/-- What an unlisted address reads as: 0x00, which for `D` is its reset and cleared contents
(10_state.md R28) and for `B`, whose reset contents the spec leaves unspecified, a DESIGN CHOICE (log 4). -/
def blankByte : Byte := 0x00#8

/-- The byte at an address. -/
def Memory.read : Memory → Nat → Byte
  | [], _ => blankByte
  | c :: m, a => if c.1 = a then c.2 else Memory.read m a

/-- The memory without any entry for the address. -/
def Memory.erase : Memory → Nat → Memory
  | [], _ => []
  | c :: m, a => if c.1 = a then Memory.erase m a else c :: Memory.erase m a

/-- The memory with the entry put in its place in the rising order. -/
def Memory.place : Memory → Host.Cell → Memory
  | [], c => [c]
  | c' :: m, c => if c.1 < c'.1 then c :: c' :: m else c' :: Memory.place m c

/-- Store one byte. -/
def Memory.write (m : Memory) (a : Nat) (v : Byte) : Memory :=
  if v = blankByte then Memory.erase m a else Memory.place (Memory.erase m a) (a, v)

/-- The canonical form: addresses strictly rising, no entry equal to what an unlisted address reads as. -/
abbrev Memory.wf (m : Memory) : Prop :=
  m.Pairwise (fun c d => c.1 < d.1) ∧ ∀ c ∈ m, c.2 ≠ blankByte

/-- Every listed address is an index of a space of `size` bytes (R50). -/
abbrev Memory.within (size : Nat) (m : Memory) : Prop := ∀ c ∈ m, c.1 < size

/-! ### The one home of each register's write -/

def State.setLanes (v : Lanes) (s : State) : State := { s with lanes := v }
def State.setBuf (v : Memory) (s : State) : State := { s with buf := v }
def State.setCount (v : BitVec 5) (s : State) : State := { s with n := v }
def State.setPhase (v : Phase) (s : State) : State := { s with phase := v }
def State.setErr (v : Bool) (s : State) : State := { s with err := v }
def State.setErrc (v : BitVec 2) (s : State) : State := { s with errc := v }
def State.setDig (v : Memory) (s : State) : State := { s with dig := v }
def State.setDlc (v : BitVec 2) (s : State) : State := { s with dlc := v }
def State.setResp (v : Option Response) (s : State) : State := { s with resp := v }
def State.setInput (v : List HostEvent) (s : State) : State := { s with input := v }

/-! ### Faults, refusal, reset -/

/-- The two faults (60_exceptions.md R170). -/
inductive FaultCause where
  | misuse
  | illegal
  deriving DecidableEq, Repr

/-- The fault codes (60_exceptions.md R171). -/
def FaultCause.code : FaultCause → BitVec 2
  | .misuse  => 1#2
  | .illegal => 2#2

/-- Taking a fault: `ERR <- 1`, `ERRC <- c`, respond `FAULT(c)`, nothing else (60_exceptions.md R172). -/
def raise (c : FaultCause) (s : State) : State :=
  ((s.setErr true).setErrc c.code).setResp (some (.fault c.code))

/-- A command on a faulted instance: no change of state, respond `FAULT(ERRC)` (R172). -/
def refuse (s : State) : State := s.setResp (some (.fault s.errc))

/-- The command ran to its end: respond `OK` (30_encoding.md R74). -/
def respondOk (s : State) : State := s.setResp (some .ok)

/-- The `RST` port (70_reset_and_hazards.md R200): the only way out of a fault (60_exceptions.md R174).
What the host goes on to present is not the instance's and stays, as do the constants it is built with. -/
def assertReset (s : State) : State := (State.resetWith s.params).setInput s.input

/-! ### The checks every command begins with (60_exceptions.md R173) -/

/-- A decoded command that is legal in both phases (NEW): refused on a faulted instance, else it runs. -/
def anyPhaseCommand (body : State → State) (s : State) : Host.Outcome State Fault Refusal :=
  if s.err = true then .next (refuse s) else .next (respondOk (body s))

/-- A decoded command of the hasher (UPD, FIN256, FIN512): refused on a faulted instance, MISUSE on a
consumed one, else it runs. A count outside `0..15` stops the model (log 8). -/
def hasherCommand (body : State → State) (s : State) : Host.Outcome State Fault Refusal :=
  if s.err = true then .next (refuse s)
  else if s.phase = .consumed then .next (raise .misuse s)
  else if s.n.toNat < rateBytes then .next (respondOk (body s))
  else .fault .bufferIndex

end Sys2Proof.Machine
end

