-- ==== Sys2Proof/Machine/Flags.lean ====
section
/-! DEFINITION. The updates of the phase flag and the digest length code. The hardware has no arithmetic
flag (10_state.md section 3); `ERR` and `ERRC` are written by taking a fault alone (Machine/Ops.lean). -/

namespace Sys2Proof.Machine

/-- `PH <- 0`, `DLC <- 0`: NEW (10_state.md R25, R29). -/
def markAbsorbing (s : State) : State := (s.setPhase .absorbing).setDlc 0#2

/-- `DLC <- code`, `PH <- 1`: FIN256 with code 1, FIN512 with code 2 (10_state.md R25, R29). -/
def markConsumed (code : BitVec 2) (s : State) : State := (s.setDlc code).setPhase .consumed

/-- The digest length in bytes, `32 * DLC` (10_state.md R29). -/
def digestLength (s : State) : Nat := squeezeBytes * s.dlc.toNat

end Sys2Proof.Machine
end

