-- ==== Sys2Proof/Machine/Map.lean ====
section
/-! DEFINITION. Block F, the chaotic map (40_chaotic_map_f.md), and the ways the spec allows to build it. -/

namespace Sys2Proof.Machine

/-- `F(x)`, the normative two-branch definition (40_chaotic_map_f.md R90, port R79). The reading of `1 - x`
is `0 - x` (R95, decision D12). UNVERIFIED (log 3). -/
def chaoticMap (x : Word) : Word :=
  let xbar := 0#64 - x
  let t := if x < halfRange then x * xbar else xbar * (x - halfRange)
  t <<< 2

/-- The closed form `0 - 4*x*x` (R91). -/
def chaoticMapClosed (x : Word) : Word := 0#64 - 4#64 * x * x

/-- Realisation (a) of R93: both products, a multiplexer steered by `x[63]`. -/
def chaoticMapMux (x : Word) : Word :=
  let xbar := 0#64 - x
  let lower := x * xbar
  let upper := xbar * (x - halfRange)
  (if x.getLsbD 63 then upper else lower) <<< 2

/-- Realisation (b) of R93: one multiplier, its operands chosen by the mask `m`, 64 copies of `x[63]`;
`v` is `x` with bit 63 cleared (R92). -/
def chaoticMapMasked (x : Word) : Word :=
  let xbar := 0#64 - x
  let v := x &&& ~~~halfRange
  let m := 0#64 - (x >>> 63)
  let p := (x &&& ~~~m) ||| (xbar &&& m)
  let q := (xbar &&& ~~~m) ||| (v &&& m)
  (p * q) <<< 2

/-- The single datapath of R93's last sentence: `t = x * xbar` for every `x`. -/
def chaoticMapSingle (x : Word) : Word := (x * (0#64 - x)) <<< 2

end Sys2Proof.Machine
end

