-- ==== Sys2Proof/Machine/Lattice.lean ====
section
/-! DEFINITION. Blocks STEP and PHI (41_permutation_phi.md). -/

namespace Sys2Proof.Machine

/-- `STEP`: one lattice step, every lane computed from the OLD lanes (41_permutation_phi.md R110, R111). -/
def latticeStep (s : Lanes) : Lanes where
  s0 := chaoticMap s.s0 ^^^ (s.s1 >>> 31) ^^^ (s.s3 <<< 17)
  s1 := chaoticMap s.s1 ^^^ (s.s2 >>> 23) ^^^ (s.s0 <<< 11)
  s2 := chaoticMap s.s2 ^^^ (s.s3 >>> 47) ^^^ (s.s1 <<< 29)
  s3 := chaoticMap s.s3 ^^^ (s.s0 >>> 13) ^^^ (s.s2 <<< 5)

/-- `STEP` applied `k` times. -/
def latticeSteps : Nat → Lanes → Lanes
  | 0, s => s
  | k + 1, s => latticeSteps k (latticeStep s)

/-- `PHI`: eight lattice steps, the same function each round (R113). -/
def phi (s : Lanes) : Lanes := latticeSteps rounds s

/-- Lane `i` of the four. -/
def lane (s : Lanes) (i : Fin 4) : Word :=
  match i with
  | 0 => s.s0
  | 1 => s.s1
  | 2 => s.s2
  | 3 => s.s3

/-- The right shift counts of R110's table, by lane. -/
def rightShift (i : Fin 4) : Nat :=
  match i with
  | 0 => 31
  | 1 => 23
  | 2 => 47
  | 3 => 13

/-- The left shift counts of R110's table, by lane. -/
def leftShift (i : Fin 4) : Nat :=
  match i with
  | 0 => 17
  | 1 => 11
  | 2 => 29
  | 3 => 5

/-- `STEP` as one packed operation on four 64-bit elements: lane `i` through `F`, the lane index rotated by
+1 and shifted right, rotated by -1 and shifted left (R110 table, R112). -/
def latticeStepPacked (s : Lanes) : Lanes :=
  let element (i : Fin 4) : Word :=
    chaoticMap (lane s i) ^^^ (lane s (i + 1) >>> rightShift i) ^^^ (lane s (i - 1) <<< leftShift i)
  ⟨element 0, element 1, element 2, element 3⟩

end Sys2Proof.Machine
end

