-- ==== Sys2Proof/Machine/Operands.lean ====
section
/-! DEFINITION. How operands reach the datapath: the little-endian word load from `B`, the little-endian
word store to `D`, the byte store and zero fill (00_scope.md R11, 20_memory.md R51 to R54). -/

namespace Sys2Proof.Machine

/-- `MemRead(addr, k)`: the sum of `B[addr+j] * 2^(8j)` over `j < k` (00_scope.md R11). -/
def memReadNat (m : Memory) (a : Nat) : Nat → Nat
  | 0 => 0
  | k + 1 => (Memory.read m a).toNat + 256 * memReadNat m (a + 1) k

/-- `MemRead(addr, 8)` as a Word (20_memory.md R51). -/
def loadWord (m : Memory) (a : Nat) : Word := BitVec.ofNat 64 (memReadNat m a 8)

/-- The `k` low bytes of a Word stored from an address on, least significant first. -/
def storeBytes (m : Memory) (a : Nat) (v : Word) : Nat → Memory
  | 0 => m
  | k + 1 => storeBytes (Memory.write m a (v.setWidth 8)) (a + 1) (v >>> 8) k

/-- `DigWrite(addr, 8, v)` (20_memory.md R52). -/
def storeWord (m : Memory) (a : Nat) (v : Word) : Memory := storeBytes m a v 8

/-- `MemWrite(i, 1, 0x00)` for the `k` indices from `a` on (42_sponge_commands.md R140). -/
def zeroFill (m : Memory) (a : Nat) : Nat → Memory
  | 0 => m
  | k + 1 => zeroFill (Memory.write m a 0x00#8) (a + 1) k

end Sys2Proof.Machine
end

