-- ==== Sys2Proof/Machine/Sponge.lean ====
section
/-! DEFINITION. The operations the commands of block SPONGE are made of (42_sponge_commands.md). -/

namespace Sys2Proof.Machine

/-- XOR two words into the rate lanes; the capacity lanes are not touched (42_sponge_commands.md R130,
10_state.md R21). -/
def xorRate (w0 w1 : Word) (v : Lanes) : Lanes := { v with s0 := v.s0 ^^^ w0, s1 := v.s1 ^^^ w1 }

/-- XOR a domain tag into lane `s3` (R140 step 3). -/
def xorTag (t : Word) (v : Lanes) : Lanes := { v with s3 := v.s3 ^^^ t }

/-- `ABSORB_BLOCK` (R130). The bytes of `B` stay as they are. -/
def absorbBlock (s : State) : State :=
  (s.setLanes (phi (xorRate (loadWord s.buf 0) (loadWord s.buf 8) s.lanes))).setCount 0#5

/-- The body of NEW (R131). -/
def freshHasher (s : State) : State :=
  markAbsorbing (((s.setLanes s.params.iv).setCount 0#5).setDig [])

/-- `B[n] <- b`, `n <- n + 1` (R132). -/
def pushByte (b : Byte) (s : State) : State :=
  (s.setBuf (Memory.write s.buf s.n.toNat b)).setCount (s.n + 1#5)

/-- The body of UPD: the 16th byte is absorbed by the command that brings it (R132, R208). -/
def appendByte (b : Byte) (s : State) : State :=
  let t := pushByte b s
  if t.n.toNat = rateBytes then absorbBlock t else t

/-- The pad: `B[n] <- PAD`, then zeros up to index 15 (R140 step 1). -/
def padBuffer (s : State) : State :=
  s.setBuf (zeroFill (Memory.write s.buf s.n.toNat padByte) (s.n.toNat + 1) (rateBytes - 1 - s.n.toNat))

/-- Pad, absorb the padded block, tag, finalization permutation (R140 steps 1 to 4, R145). -/
def finalState (tag : Word) (s : State) : State :=
  let t := absorbBlock (padBuffer s)
  t.setLanes (phi (xorTag tag t.lanes))

/-- Serialize the four lanes little-endian into 32 bytes of `D` (R140 step 5, 20_memory.md R52). -/
def squeezeTo (m : Memory) (base : Nat) (v : Lanes) : Memory :=
  storeWord (storeWord (storeWord (storeWord m base v.s0) (base + 8) v.s1) (base + 16) v.s2) (base + 24) v.s3

/-- One squeeze into `D[base .. base+31]`. -/
def squeeze (base : Nat) (s : State) : State := s.setDig (squeezeTo s.dig base s.lanes)

/-- The body of FIN256 (R140). -/
def finish256 (s : State) : State :=
  let t := squeeze 0 (finalState s.params.tag256 s)
  markConsumed 1#2 (t.setDig (zeroFill t.dig squeezeBytes (digestBytes - squeezeBytes)))

/-- The body of FIN512 (R145). -/
def finish512 (s : State) : State :=
  let t := squeeze 0 (finalState s.params.tag512 s)
  markConsumed 2#2 (squeeze squeezeBytes (t.setLanes (phi t.lanes)))

end Sys2Proof.Machine
end

