-- ==== Sys2Proof/Machine/Commands.lean ====
section
/-! DEFINITION. The meanings of the four commands (42_sponge_commands.md R131, R132, R140, R145), each with
the checks of 60_exceptions.md R173. -/

namespace Sys2Proof.Machine

/-- NEW (42_sponge_commands.md R131): legal in both phases. -/
def execNew (s : State) : Host.Outcome State Fault Refusal := anyPhaseCommand freshHasher s

/-- UPD b (R132). -/
def execUpd (b : Byte) (s : State) : Host.Outcome State Fault Refusal := hasherCommand (appendByte b) s

/-- FIN256 (R140). -/
def execFin256 (s : State) : Host.Outcome State Fault Refusal := hasherCommand finish256 s

/-- FIN512 (R145). -/
def execFin512 (s : State) : Host.Outcome State Fault Refusal := hasherCommand finish512 s

end Sys2Proof.Machine
end

