-- ==== Sys2Proof/Machine/Dispatch.lean ====
section
/-! DEFINITION. exec: one arm for each instruction, each one direct call of its meaning. -/

namespace Sys2Proof.Machine

def exec (i : Instr) (s : State) : Host.Outcome State Fault Refusal :=
  match i with
  | .new => Sys2Proof.Machine.execNew s
  | .upd b => Sys2Proof.Machine.execUpd b s
  | .fin256 => Sys2Proof.Machine.execFin256 s
  | .fin512 => Sys2Proof.Machine.execFin512 s

end Sys2Proof.Machine
end

