-- ==== Sys2Proof/Machine/Present.lean ====
section
/-! DEFINITION. What the instance does with one event of its host: a word on the command port, or reset. -/

namespace Sys2Proof.Machine

/-- A decoded word on an unfaulted instance: a reserved word raises ILLEGAL, before any check of the phase;
a command is executed (60_exceptions.md R173 checks 2 to 4). -/
def executeDecoded (d : Decoded) (s : State) : Host.Outcome State Fault Refusal :=
  match d with
  | .command i  => exec i s
  | .reserved _ => .next (raise .illegal s)

/-- The host presents a command word. On a faulted instance it is refused before it is decoded
(60_exceptions.md R173 check 1, R174). -/
def present (w : CommandWord) (s : State) : Host.Outcome State Fault Refusal :=
  if s.err = true then .next (refuse s) else executeDecoded (decode w) s

/-- One event of the host (30_encoding.md R81). -/
def receive (e : HostEvent) (s : State) : Host.Outcome State Fault Refusal :=
  match e with
  | .reset     => .next (assertReset s)
  | .command w => present w s

end Sys2Proof.Machine
end

