-- ==== Sys2Proof/Machine/Step.lean ====
section
/-! DEFINITION. One step: the next event of the host, executed to completion (20_memory.md R56). -/

namespace Sys2Proof.Machine

/-- One step. With nothing presented the instance keeps its state (10_state.md R30; DEDUCED, log 6). -/
def step (s : State) : Host.Outcome State Fault Refusal :=
  match s.input with
  | [] => .next s
  | e :: rest => receive e (s.setInput rest)

/-- `s` with the command word `w` as what its host presents next (10_state.md R32: the hardware fetches
nothing, the host holds the program; log 11). -/
def State.withFetchWord (s : State) (nbits w : Nat) : State :=
  { s with input := .command (BitVec.ofNat 16 (w % 2 ^ nbits)) :: s.input }

end Sys2Proof.Machine
end

