-- ==== Sys2Proof/Machine/Instances.lean ====
section
/-! DEFINITION. Several instances side by side (20_memory.md R57, 10_state.md R36, 60_exceptions.md R178):
the product of their states; an event goes to one of them. -/

namespace Sys2Proof.Machine

/-- The host of instance `i` presents the event `e`: component `i` changes, by the one-instance rule, and no
other (20_memory.md R57). -/
def deliver {k : Nat} (i : Fin k) (e : HostEvent) (sys : Vector State k) :
    Host.Outcome (Vector State k) Fault Refusal :=
  match receive e sys[i] with
  | .next t => .next (sys.set i t)
  | .fault r => .fault r
  | .refused r => .refused r

/-- A stream of events, each for one of the instances, in the order presented. -/
def deliverAll {k : Nat} : List (Fin k × HostEvent) → Vector State k → Host.Outcome (Vector State k) Fault Refusal
  | [], sys => .next sys
  | (i, e) :: rest, sys =>
    match deliver i e sys with
    | .next sys' => deliverAll rest sys'
    | .fault r => .fault r
    | .refused r => .refused r

/-- A stream of events for one instance alone. -/
def receiveAll : List HostEvent → State → Host.Outcome State Fault Refusal
  | [], s => .next s
  | e :: rest, s =>
    match receive e s with
    | .next t => receiveAll rest t
    | .fault r => .fault r
    | .refused r => .refused r

/-- The events of a merged stream that go to instance `i`, in their order. -/
def streamOf {k : Nat} (i : Fin k) : List (Fin k × HostEvent) → List HostEvent
  | [] => []
  | (j, e) :: rest => if j = i then e :: streamOf i rest else streamOf i rest

end Sys2Proof.Machine
end

