-- ==== Sys2Proof/Machine/Digest.lean ====
section
/-! DEFINITION. The digest as a function of the message (42_sponge_commands.md R156), for every choice of
the parameters. -/

namespace Sys2Proof.Machine

/-- `le64(c)`: the bytes as one integer, the first least significant (R156). -/
def le64 (c : List Byte) : Word := BitVec.ofNat 64 (c.foldr (fun b acc => b.toNat + 256 * acc) 0)

/-- `pad(m) = m || 0x01 || 0x00 ...`, up to the next multiple of 16 (R156). -/
def pad (m : List Byte) : List Byte :=
  m ++ padByte :: List.replicate (rateBytes - 1 - m.length % rateBytes) 0x00#8

/-- The first `k` 16-byte blocks of a byte sequence. -/
def blocksOf : Nat → List Byte → List (List Byte)
  | 0, _ => []
  | k + 1, m => m.take rateBytes :: blocksOf k (m.drop rateBytes)

/-- The full blocks of a message: the first `floor(L/16)` (R153). -/
def fullBlocks (m : List Byte) : List (List Byte) := blocksOf (m.length / rateBytes) m

/-- The bytes after the full blocks: the last `L mod 16` (R153). -/
def tailBytes (m : List Byte) : List Byte := m.drop (rateBytes * (m.length / rateBytes))

/-- `absorb(S, k)` (R156). -/
def absorb (v : Lanes) (k : List Byte) : Lanes :=
  phi (xorRate (le64 (k.take 8)) (le64 (k.drop 8)) v)

/-- `fold absorb` over blocks in order. -/
def absorbAll (v : Lanes) (blocks : List (List Byte)) : Lanes := blocks.foldl absorb v

/-- `A(m)`: the padded message absorbed, starting from the IV (R156). -/
def absorbPadded (iv : Lanes) (m : List Byte) : Lanes := absorbAll iv (fullBlocks (pad m))

/-- The `k` low bytes of a Word, least significant first. -/
def wordBytes (v : Word) : Nat → List Byte
  | 0 => []
  | k + 1 => v.setWidth 8 :: wordBytes (v >>> 8) k

/-- `ser(S)`: the 32 bytes of the four lanes, each little-endian (R156). -/
def serialize (v : Lanes) : List Byte :=
  wordBytes v.s0 8 ++ wordBytes v.s1 8 ++ wordBytes v.s2 8 ++ wordBytes v.s3 8

/-- `T256` and `T512`: `PHI(tag(A(m), t))` (R156). -/
def taggedState (iv : Lanes) (tag : Word) (m : List Byte) : Lanes := phi (xorTag tag (absorbPadded iv m))

/-- `Hash256(m)` (R156). -/
def hash256 (c : Config) (m : List Byte) : List Byte := serialize (taggedState c.iv c.tag256 m)

/-- `Hash512(m)` (R156). -/
def hash512 (c : Config) (m : List Byte) : List Byte :=
  serialize (taggedState c.iv c.tag512 m) ++ serialize (phi (taggedState c.iv c.tag512 m))

end Sys2Proof.Machine
end

