-- ==== Sys2Proof/Machine/Ports.lean ====
section
/-! DEFINITION. What the host can observe of an instance (10_state.md R30, 30_encoding.md R81): the response,
the status signals and the digest register. Reading changes nothing: these are functions of the state. -/

namespace Sys2Proof.Machine

/-- The output ports of block SPONGE (30_encoding.md R81). `S`, `B` and `n` have none (10_state.md R30). -/
structure Outputs where
  resp : Option Response
  ph   : BitVec 1
  err  : BitVec 1
  errc : BitVec 2
  dlc  : BitVec 2
  d    : BitVec 512
  deriving DecidableEq, Repr

/-- The wire of `PH`: 0 ABSORBING, 1 CONSUMED (10_state.md R25). -/
def Phase.wire : Phase → BitVec 1
  | .absorbing => 0#1
  | .consumed  => 1#1

/-- The `D` port: byte `D[i]` on bits `8i+7 : 8i` (30_encoding.md R81). -/
def digestPort (m : Memory) : BitVec 512 := BitVec.ofNat 512 (memReadNat m 0 digestBytes)

/-- The output ports in a state. -/
def outputs (s : State) : Outputs where
  resp := s.resp
  ph   := s.phase.wire
  err  := BitVec.ofBool s.err
  errc := s.errc
  dlc  := s.dlc
  d    := digestPort s.dig

/-- The host reads one byte of `D`: any index `0..63`, at any time (20_memory.md R50); no other index
exists. -/
def hostReadDigest (s : State) (i : Nat) : Option Byte :=
  if i < digestBytes then some (Memory.read s.dig i) else none

/-- The `k` bytes of a byte space from an address on. -/
def bytesFrom (m : Memory) (a : Nat) : Nat → List Byte
  | 0 => []
  | k + 1 => Memory.read m a :: bytesFrom m (a + 1) k

/-- The digest the host takes away: `D[0 .. 32*DLC - 1]` (70_reset_and_hazards.md R201, R210). -/
def digestOf (s : State) : List Byte := bytesFrom s.dig 0 (digestLength s)

end Sys2Proof.Machine
end

