-- ==== Sys2Proof/Machine/Pseudo.lean ====
section
/-! DEFINITION. The pseudo-instructions (30_encoding.md R76, 42_sponge_commands.md R150 to R152) and the
execution of a sequence of commands. -/

namespace Sys2Proof.Machine

/-- The three pseudo-instructions (30_encoding.md R76). -/
inductive Pseudo where
  | update (bytes : List Byte)
  | hash (bytes : List Byte)
  | hash512 (bytes : List Byte)
  deriving DecidableEq, Repr

/-- `UPDATE`: one UPD a byte, in order; no command for the empty sequence (42_sponge_commands.md R150). -/
def expandUpdate : List Byte → List Instr
  | [] => []
  | b :: bs => .upd b :: expandUpdate bs

/-- The expansion of a pseudo-instruction (30_encoding.md R76; R150, R151, R152). -/
def Pseudo.expand : Pseudo → List Instr
  | .update m  => expandUpdate m
  | .hash m    => .new :: (expandUpdate m ++ [.fin256])
  | .hash512 m => .new :: (expandUpdate m ++ [.fin512])

/-- Commands executed one after another, in the order presented (20_memory.md R56), up to the first stop. -/
def execAll : List Instr → State → Host.Outcome State Fault Refusal
  | [], s => .next s
  | i :: is, s =>
    match exec i s with
    | .next t => execAll is t
    | .fault r => .fault r
    | .refused r => .refused r

end Sys2Proof.Machine
end

