-- ==== Sys2Proof/Safety.lean ====
section
/-! DEFINITION. The terms claims use: the invariants of 10_state.md R31, what a state has received (R31 item 5),
equality but for stale buffer bytes (20_memory.md R61), legal command sequences (60_exceptions.md R176). -/

namespace Sys2Proof.Machine

/-- `n` in `0..15`; the count and the digest length code follow the phase; the fault code follows `ERR`; the
codes 3 are never written (10_state.md R24, R27, R29, R31 items 1 to 3); the digest bytes a length code does
not cover are zero (R28). -/
structure RegistersInv (s : State) : Prop where
  count_at_rest  : s.n.toNat < rateBytes
  consumed_count : s.phase = .consumed → s.n = 0#5
  consumed_code  : s.phase = .consumed → s.dlc = 1#2 ∨ s.dlc = 2#2
  absorbing_code : s.phase = .absorbing → s.dlc = 0#2
  digest_cover   : ∀ a, digestLength s ≤ a → Memory.read s.dig a = 0x00#8
  fault_code     : s.err = true ↔ s.errc ≠ 0#2
  code_written   : s.errc ≠ 3#2

/-- Both byte spaces keep their canonical form and their indices (20_memory.md R50). -/
structure MemoryInv (s : State) : Prop where
  buf_wf     : Memory.wf s.buf
  buf_within : Memory.within rateBytes s.buf
  dig_wf     : Memory.wf s.dig
  dig_within : Memory.within digestBytes s.dig

/-- The `RESP` port shows the stored fault on a faulted instance, and never a fault on another
(60_exceptions.md R172). -/
structure ResponseInv (s : State) : Prop where
  faulted   : s.err = true → s.resp = some (.fault s.errc)
  unfaulted : s.err = false → s.resp = none ∨ s.resp = some .ok

/-- The invariant of the machine between two commands (10_state.md R31). -/
structure Inv (s : State) : Prop where
  registers : RegistersInv s
  memory    : MemoryInv s
  response  : ResponseInv s
  /-- 00_scope.md R7: the tags are distinct. -/
  tags      : s.params.TagsDistinct

/-- The instance, absorbing, has received the bytes `m` since the last NEW or reset (10_state.md R31 item 5). -/
structure Received (m : List Byte) (s : State) : Prop where
  phase : s.phase = .absorbing
  count : s.n.toNat = m.length % rateBytes
  lanes : s.lanes = absorbAll s.params.iv (fullBlocks m)
  bytes : bytesFrom s.buf 0 s.n.toNat = tailBytes m

/-- The micro-operations, the only ones through which the lanes are written (10_state.md R20). -/
inductive MicroOp where
  | loadIV (iv : Lanes)
  | xorBlock (w0 w1 : Word)
  | xorTag (t : Word)
  | permute
  deriving DecidableEq, Repr

/-- What a micro-operation does to the lanes. -/
def MicroOp.apply : MicroOp → Lanes → Lanes
  | .loadIV iv, _      => iv
  | .xorBlock w0 w1, v => xorRate w0 w1 v
  | .xorTag t, v       => Machine.xorTag t v
  | .permute, v        => phi v

/-- Micro-operations one after another. -/
def runMicroOps (ops : List MicroOp) (v : Lanes) : Lanes := ops.foldl (fun w o => o.apply w) v

/-- The block absorb of a buffer (42_sponge_commands.md R130). -/
def absorbOps (m : Memory) : List MicroOp := [.xorBlock (loadWord m 0) (loadWord m 8), .permute]

/-- The micro-operations of a command that executes, in the order of its pseudocode (42_sponge_commands.md
R131, R132, R140, R145). The statement PhiInvocationCounts ties them to the lanes `exec` leaves. -/
def laneOps (i : Instr) (s : State) : List MicroOp :=
  match i with
  | .new    => [.loadIV s.params.iv]
  | .upd b  => if s.n.toNat + 1 = rateBytes then absorbOps (pushByte b s).buf else []
  | .fin256 => absorbOps (padBuffer s).buf ++ [.xorTag s.params.tag256, .permute]
  | .fin512 => absorbOps (padBuffer s).buf ++ [.xorTag s.params.tag512, .permute, .permute]

/-- How many times `PHI` is invoked by a command that executes: the `permute`s among its micro-operations. -/
def phiInvocations (i : Instr) (s : State) : Nat := (laneOps i s).count .permute

/-- The `PHI` invocations of a sequence of commands as the machine executes it: a command that is not answered
OK makes none (42_sponge_commands.md R155). -/
def phiCount : List Instr → State → Nat
  | [], _ => 0
  | i :: is, s =>
    match exec i s with
    | .next t => (if t.resp = some .ok then phiInvocations i s else 0) + phiCount is t
    | .fault _ => 0
    | .refused _ => 0

/-- Two states that differ at most in invalid buffer bytes, `B[i]` with `i >= n` (10_state.md R23). -/
structure SameButStale (s t : State) : Prop where
  rest  : s = t.setBuf s.buf
  valid : ∀ i, i < s.n.toNat → Memory.read s.buf i = Memory.read t.buf i

/-- The phase a legal command leaves (42_sponge_commands.md R154). -/
def phaseAfter (i : Instr) (p : Phase) : Phase :=
  match i with
  | .new    => .absorbing
  | .upd _  => p
  | .fin256 => .consumed
  | .fin512 => .consumed

/-- The command is legal in the phase (70_reset_and_hazards.md R203). -/
def legalIn (i : Instr) (p : Phase) : Bool :=
  match i with
  | .new    => true
  | .upd _  => decide (p = .absorbing)
  | .fin256 => decide (p = .absorbing)
  | .fin512 => decide (p = .absorbing)

/-- "no UPD, FIN256 or FIN512 follows a FIN256 or FIN512 without a NEW in between" (60_exceptions.md R176),
from a phase on. -/
def legalSequence : Phase → List Instr → Bool
  | _, [] => true
  | p, i :: is => legalIn i p && legalSequence (phaseAfter i p) is

end Sys2Proof.Machine
end

