-- ==== Sys2Proof/Certificates/Slice0/Obligations.lean ====
section
/-! DEFINITION. The statements for the provers. Each docstring names the rules of spec/ it formalises. -/

open Sys2Proof Sys2Proof.Machine

/-! ### Encoding -/

/-- R71, R72: every command, with every operand byte, is the decoding of its word, and a word that decodes
to a command is that command's only word. -/
def Obligations.CommandWordsRoundTrip : Prop :=
  (∀ i : Instr, decode (encode i) = .command i) ∧
  (∀ (w : CommandWord) (i : Instr), decode w = .command i → encode i = w)

/-- The fourteen words of the decode table of 95_test_vectors.md section 2.7 (R70 to R73) decode as it
prints them. -/
def Obligations.PrintedWordsDecode : Prop :=
  decode 0x0000#16 = .command .new ∧ decode 0x0100#16 = .command (.upd 0x00#8) ∧
  decode 0x0141#16 = .command (.upd 0x41#8) ∧ decode 0x01FF#16 = .command (.upd 0xFF#8) ∧
  decode 0x0200#16 = .command .fin256 ∧ decode 0x0300#16 = .command .fin512 ∧
  decode 0x0001#16 = .reserved .operand ∧ decode 0x00FF#16 = .reserved .operand ∧
  decode 0x0201#16 = .reserved .operand ∧ decode 0x0380#16 = .reserved .operand ∧
  decode 0x0400#16 = .reserved .opcode ∧ decode 0x8000#16 = .reserved .opcode ∧
  decode 0xFF00#16 = .reserved .opcode ∧
  decode 0xFFFF#16 = .reserved .opcode

/-- R71: the decoder reads a word as the row it selects by mask and match, with `imm8` as UPD's operand; the
rows are disjoint; a word that selects no row is reserved; 259 words are legal. -/
def Obligations.OpcodeTableSelectsTheCommand : Prop :=
  (∀ w r, r ∈ opcodeTable → r.selects w = true →
    ∃ i, decode w = .command i ∧ i.mnemonic = r.mnemonic ∧
      (r.mnemonic = "UPD" → i = .upd (w.extractLsb' 0 8))) ∧
  (∀ w r r', r ∈ opcodeTable → r' ∈ opcodeTable → r.selects w = true → r'.selects w = true → r = r') ∧
  (∀ w, (∀ r ∈ opcodeTable, r.selects w = false) ↔ ∃ why, decode w = .reserved why) ∧
  (∃ legal : List CommandWord, legal.Nodup ∧ legal.length = 259 ∧
    ∀ w, w ∈ legal ↔ ∃ i, decode w = .command i)

/-- R73: exactly the words with `op` in `0x04..0xFF`, or with `op` in `0x00, 0x02, 0x03` and a nonzero
`imm8`, are reserved; every other word is one of the 259 legal commands; presented to an unfaulted instance
a reserved word raises ILLEGAL, and no other word does. -/
def Obligations.ReservedWordsRaiseIllegal : Prop :=
  (∃ legal : List CommandWord, legal.Nodup ∧ legal.length = 259 ∧
    ∀ w, w ∈ legal ↔ ¬ ∃ why, decode w = .reserved why) ∧
  ∀ w : CommandWord,
    ((∃ why, decode w = .reserved why) ↔
      4 ≤ (w.extractLsb' 8 8).toNat ∨
      (((w.extractLsb' 8 8).toNat = 0 ∨ (w.extractLsb' 8 8).toNat = 2 ∨ (w.extractLsb' 8 8).toNat = 3) ∧
        w.extractLsb' 0 8 ≠ 0x00#8)) ∧
    ((∃ why, decode w = .reserved why) ∨ ∃ i, decode w = .command i) ∧
    (∀ s : State, s.err = false → (∃ why, decode w = .reserved why) →
      present w s = .next { s with err := true, errc := 2#2, resp := some (.fault 2#2) }) ∧
    (∀ s t : State, s.err = false → present w s = .next t →
      ((t.err = true ∧ t.errc = 2#2) ↔ ∃ why, decode w = .reserved why))

/-! ### The step -/

/-- R56, R173: the command the host presents is executed, in one step, on the state it finds; only the event
is used up. Whatever the word, the step is the presentation of that word. -/
def Obligations.StepRunsDecodedCommand : Prop :=
  (∀ (s : State) (w : CommandWord) (i : Instr) (rest : List HostEvent),
    s.input = .command w :: rest → decode w = .command i → step s = exec i { s with input := rest }) ∧
  (∀ (s : State) (w : CommandWord) (rest : List HostEvent),
    s.input = .command w :: rest → step s = present w { s with input := rest })

/-- R71, log 11: a word placed as what the host presents next is the very next step's command. -/
def Obligations.PlacedWordRunsNext : Prop :=
  ∀ (s : State) (i : Instr), step (s.withFetchWord 16 (encode i).toNat) = exec i s

/-- The model's choice of log 6, from R30 and R32: with nothing presented, nothing changes. -/
def Obligations.IdleStepChangesNothing : Prop :=
  ∀ s : State, s.input = [] → step s = .next s

/-- R173: already faulted, then ILLEGAL, then MISUSE, then the command executes, as exec gives it, and answers
OK; the first match wins. The count at rest is R31 item 1, kept by StepKeepsTheInvariant. -/
def Obligations.ChecksInOrder : Prop :=
  ∀ (w : CommandWord) (s : State), s.n.toNat < 16 →
    (s.err = true → present w s = .next { s with resp := some (.fault s.errc) }) ∧
    (s.err = false → (∃ why, decode w = .reserved why) →
      present w s = .next { s with err := true, errc := 2#2, resp := some (.fault 2#2) }) ∧
    (s.err = false → ∀ i, decode w = .command i → i ≠ .new → s.phase = .consumed →
      present w s = .next { s with err := true, errc := 1#2, resp := some (.fault 1#2) }) ∧
    (s.err = false → ∀ i, decode w = .command i → (i = .new ∨ s.phase = .absorbing) →
      present w s = exec i s ∧
        ∃ t, exec i s = .next t ∧ t.resp = some .ok ∧ t.err = false ∧ t.errc = s.errc)

/-! ### Faults -/

/-- R170: an unfaulted instance raises MISUSE exactly when UPD, FIN256 or FIN512 finds it consumed, ILLEGAL
exactly on a reserved word, and nothing else; only the code is recorded. -/
def Obligations.ExactlyTwoFaults : Prop :=
  ∀ (w : CommandWord) (s : State), s.n.toNat < 16 → s.err = false →
    ∃ t, present w s = .next t ∧
      ((t.err = true ∧ t.errc = 1#2) ↔
        s.phase = .consumed ∧ ((∃ b, decode w = .command (.upd b)) ∨ decode w = .command .fin256 ∨
          decode w = .command .fin512)) ∧
      ((t.err = true ∧ t.errc = 2#2) ↔
        4 ≤ (w.extractLsb' 8 8).toNat ∨
        (((w.extractLsb' 8 8).toNat = 0 ∨ (w.extractLsb' 8 8).toNat = 2 ∨ (w.extractLsb' 8 8).toNat = 3) ∧
          w.extractLsb' 0 8 ≠ 0x00#8)) ∧
      (t.err = true → (t.errc = 1#2 ∨ t.errc = 2#2) ∧
        t = { s with err := true, errc := t.errc, resp := some (.fault t.errc) })

/-- R172: a fault writes `ERR`, `ERRC` and the response and nothing else; on a faulted instance a command,
whatever its word, changes nothing and is answered with the stored code. -/
def Obligations.FaultWritesOnlyItsCode : Prop :=
  (∀ (w : CommandWord) (s t : State), present w s = .next t → s.err = false → t.err = true →
    (t.errc = 1#2 ∨ t.errc = 2#2) ∧ t = { s with err := true, errc := t.errc, resp := some (.fault t.errc) }) ∧
  (∀ (w : CommandWord) (s : State), s.err = true →
    present w s = .next { s with resp := some (.fault s.errc) })

/-- R174: no command clears `ERR` and none overwrites `ERRC`; reset does, and it also discards the hasher. -/
def Obligations.FaultIsStickyUntilReset : Prop :=
  (∀ s t : State, s.err = true → step s = .next t →
    (∃ rest, s.input = .reset :: rest) ∨
    (t.err = true ∧ t.errc = s.errc ∧ t.lanes = s.lanes ∧ t.buf = s.buf ∧ t.n = s.n ∧ t.phase = s.phase ∧
      t.dig = s.dig ∧ t.dlc = s.dlc ∧ t.params = s.params)) ∧
  (∀ (s : State) (rest : List HostEvent), s.input = .reset :: rest →
    ∃ t, step s = .next t ∧ t.err = false ∧ t.errc = 0#2 ∧ t.lanes = s.params.iv ∧ t.n = 0#5 ∧
      t.phase = .absorbing)

/-- R203: after FIN256 or FIN512 the instance is consumed; NEW is then legal, and UPD, FIN256 and FIN512 are
MISUSE and write nothing of the hasher; every later command, NEW included, is then refused. -/
def Obligations.UseAfterFinalizeIsMisuse : Prop :=
  (∀ (s t : State) (i : Instr), (i = .fin256 ∨ i = .fin512) → exec i s = .next t → t.resp = some .ok →
    t.phase = .consumed ∧ t.err = false) ∧
  (∀ s : State, s.err = false → s.phase = .consumed → ∃ t, exec .new s = .next t ∧ t.resp = some .ok) ∧
  ∀ (s : State) (i : Instr), s.err = false → s.phase = .consumed → i ≠ .new →
    ∃ t, exec i s = .next t ∧ t = { s with err := true, errc := 1#2, resp := some (.fault 1#2) } ∧
      ∀ j, exec j t = .next t

/-- R170, R177: exec refuses no instruction, and the only stop of a step is the count outside `0..15` of log
8, on an unfaulted absorbing instance. -/
def Obligations.NoRefusalAndOneStop : Prop :=
  ∀ s : State,
    (∀ r, step s ≠ .refused r) ∧
    (∀ r, step s = .fault r → r = .bufferIndex ∧ 16 ≤ s.n.toNat ∧ s.err = false ∧ s.phase = .absorbing)

/-- The model's stop of log 8 (R24 excludes the state, R50 the index): with `n >= 16` a command that would
store at `B[n]` stops. -/
def Obligations.CountOutOfRangeStops : Prop :=
  ∀ (s : State) (i : Instr), s.err = false → s.phase = .absorbing → 16 ≤ s.n.toNat → i ≠ .new →
    exec i s = .fault .bufferIndex

/-! ### Reset -/

/-- R35: the values the spec gives after reset, for every choice of the parameters, are those a NEW on an
unfaulted instance leaves, with the fault flag cleared. -/
def Obligations.ResetLeavesWhatNewLeaves : Prop :=
  (∀ c : Config, (State.resetWith c).lanes = c.iv ∧ (State.resetWith c).n = 0#5 ∧
    (State.resetWith c).phase = .absorbing ∧ (State.resetWith c).err = false ∧ (State.resetWith c).errc = 0#2 ∧
    (∀ a, Memory.read (State.resetWith c).dig a = 0x00#8) ∧ (State.resetWith c).dlc = 0#2) ∧
  (∀ s : State, s.err = false →
    ∃ t, exec .new s = .next t ∧ t.lanes = (State.resetWith s.params).lanes ∧
      t.n = (State.resetWith s.params).n ∧ t.phase = (State.resetWith s.params).phase ∧
      t.dig = (State.resetWith s.params).dig ∧ t.dlc = (State.resetWith s.params).dlc ∧
      t.err = (State.resetWith s.params).err)

/-- R200: reset, asserted in any state, gives the values of R35, and it is the only event that clears `ERR`. -/
def Obligations.ResetFromAnyState : Prop :=
  (∀ (s : State) (rest : List HostEvent), s.input = .reset :: rest →
    ∃ t, step s = .next t ∧ t.lanes = s.params.iv ∧ t.n = 0#5 ∧ t.phase = .absorbing ∧ t.err = false ∧
      t.errc = 0#2 ∧ (∀ a, Memory.read t.dig a = 0x00#8) ∧ t.dlc = 0#2 ∧ t.input = rest) ∧
  (∀ s t : State, step s = .next t → s.err = true → t.err = false → ∃ rest, s.input = .reset :: rest)

/-- R6: the default IV of the model (log 1) is the spec's, and it is what reset loads. -/
def Obligations.ResetLoadsTheDefaultIV : Prop :=
  State.reset.lanes.s0 = 0x6A09E667F3BCC908#64 ∧ State.reset.lanes.s1 = 0xB2FB1366EA957D3E#64 ∧
  State.reset.lanes.s2 = 0x3ADEC17512775099#64 ∧ State.reset.lanes.s3 = 0xDA2F590B0667322A#64

/-! ### NEW -/

/-- R131: NEW, legal in both phases of an unfaulted instance, loads the IV, empties the buffer, clears `PH`,
`DLC` and `D`, writes neither `B` nor the fault flag, and answers OK; directly after reset or after another
NEW it changes nothing; on a faulted instance it is refused; its word is 0x0000, and with another `imm8` it
is reserved. -/
def Obligations.NewStartsFreshHasher : Prop :=
  decode 0x0000#16 = .command .new ∧
  (∀ b : Byte, b ≠ 0x00#8 → decode (0x00#8 ++ b) = .reserved .operand) ∧
  (∀ s : State, s.err = false →
    ∃ t, exec .new s = .next t ∧ t.lanes = s.params.iv ∧ t.n = 0#5 ∧ t.phase = .absorbing ∧ t.dlc = 0#2 ∧
      (∀ i, Memory.read t.dig i = 0x00#8) ∧ t.resp = some .ok ∧
      t.buf = s.buf ∧ t.err = s.err ∧ t.errc = s.errc ∧ t.input = s.input ∧
      exec .new t = .next t) ∧
  (∀ c : Config, exec .new (State.resetWith c) = .next { State.resetWith c with resp := some .ok }) ∧
  (∀ s : State, s.err = true → exec .new s = .next { s with resp := some (.fault s.errc) })

/-- R131, frame: whatever NEW answers, the buffer, the fault flag and code, the pending events and the
parameters stay, and no byte outside `D[0..63]` is written. -/
def Obligations.NewFrame : Prop :=
  ∀ s t : State, exec .new s = .next t →
    t.err = s.err ∧ t.errc = s.errc ∧ t.input = s.input ∧ t.params = s.params ∧
    (∀ a, Memory.read t.buf a = Memory.read s.buf a) ∧
    (s.err = true → t.lanes = s.lanes ∧ t.n = s.n ∧ t.phase = s.phase ∧ t.dlc = s.dlc ∧
      ∀ a, Memory.read t.dig a = Memory.read s.dig a) ∧
    (MemoryInv s → ∀ a, 64 ≤ a → Memory.read t.dig a = Memory.read s.dig a)

/-! ### UPD -/

/-- R132: UPD b on an unfaulted absorbing instance stores `b` at `B[n]` and adds 1 to `n`; the 16th byte
makes it absorb the block in the same command, leaving `n = 0`; it answers OK; on a consumed instance it is
MISUSE, on a faulted one refused; its word is `0x0100 + b`. -/
def Obligations.UpdAppendsOneByte : Prop :=
  (∀ b : Byte, encode (.upd b) = 0x0100#16 + b.setWidth 16 ∧ decode (encode (.upd b)) = .command (.upd b)) ∧
  (∀ (b : Byte) (s : State), s.err = true → exec (.upd b) s = .next { s with resp := some (.fault s.errc) }) ∧
  (∀ (b : Byte) (s : State), s.err = false → s.phase = .consumed →
    exec (.upd b) s = .next { s with err := true, errc := 1#2, resp := some (.fault 1#2) }) ∧
  ∀ (b : Byte) (s : State), s.err = false → s.phase = .absorbing →
    (s.n.toNat < 15 →
      ∃ t, exec (.upd b) s = .next t ∧ t.n.toNat = s.n.toNat + 1 ∧ t.lanes = s.lanes ∧
        Memory.read t.buf s.n.toNat = b ∧ t.resp = some .ok) ∧
    (s.n.toNat = 15 →
      ∃ t, exec (.upd b) s = .next t ∧ t.n = 0#5 ∧ Memory.read t.buf 15 = b ∧ t.resp = some .ok ∧
        t.lanes = phi ⟨s.lanes.s0 ^^^ loadWord t.buf 0, s.lanes.s1 ^^^ loadWord t.buf 8, s.lanes.s2, s.lanes.s3⟩)

/-- R132, frame: whatever UPD answers, `PH`, `DLC`, `D`, the pending events and the parameters stay; the
only byte of `B` that may change is `B[n]`; the lanes change only when the buffer fills; the fault flag
changes only by MISUSE. -/
def Obligations.UpdFrame : Prop :=
  ∀ (b : Byte) (s t : State), exec (.upd b) s = .next t →
    t.phase = s.phase ∧ t.dlc = s.dlc ∧ t.input = s.input ∧ t.params = s.params ∧
    (∀ a, Memory.read t.dig a = Memory.read s.dig a) ∧
    (∀ a, a ≠ s.n.toNat → Memory.read t.buf a = Memory.read s.buf a) ∧
    (s.n.toNat ≠ 15 → t.lanes = s.lanes) ∧
    (s.err = true ∨ s.phase = .absorbing → t.err = s.err ∧ t.errc = s.errc) ∧
    (s.err = true ∨ s.phase = .consumed →
      t.lanes = s.lanes ∧ t.n = s.n ∧ ∀ a, Memory.read t.buf a = Memory.read s.buf a)

/-- R132: "the byte value never matters to control": two input bytes give the same outputs, count, phase and
stop. -/
def Obligations.ByteValueNeverSteersControl : Prop :=
  ∀ (b b' : Byte) (s : State),
    (∀ t, exec (.upd b) s = .next t →
      ∃ t', exec (.upd b') s = .next t' ∧ outputs t' = outputs t ∧ t'.n = t.n) ∧
    (∀ r, exec (.upd b) s = .fault r → exec (.upd b') s = .fault r)

/-! ### FIN256 and FIN512 -/

/-- R140: FIN256 on an unfaulted absorbing instance pads, absorbs the padded block, XORs TAG256 into `s3`,
applies PHI, writes the four lanes little-endian to `D[0..31]` and zeros to `D[32..63]`, sets `DLC` to 1 and
`PH` to 1, leaves `n = 0`, and answers OK; on a consumed instance it is MISUSE, on a faulted one refused;
with another `imm8` its word is reserved. -/
def Obligations.Fin256WritesTheDigest : Prop :=
  decode 0x0200#16 = .command .fin256 ∧
  (∀ b : Byte, b ≠ 0x00#8 → decode (0x02#8 ++ b) = .reserved .operand) ∧
  (∀ s : State, s.err = true → exec .fin256 s = .next { s with resp := some (.fault s.errc) }) ∧
  (∀ s : State, s.err = false → s.phase = .consumed →
    exec .fin256 s = .next { s with err := true, errc := 1#2, resp := some (.fault 1#2) }) ∧
  config.tag256 = 0x100#64 ∧
  ∀ s : State, s.err = false → s.phase = .absorbing → s.n.toNat < 16 →
    ∃ t, exec .fin256 s = .next t ∧
      (∀ i, i < s.n.toNat → Memory.read t.buf i = Memory.read s.buf i) ∧
      Memory.read t.buf s.n.toNat = 0x01#8 ∧
      (∀ i, s.n.toNat < i → i < 16 → Memory.read t.buf i = 0x00#8) ∧
      (∃ a : Lanes,
        a = phi ⟨s.lanes.s0 ^^^ loadWord t.buf 0, s.lanes.s1 ^^^ loadWord t.buf 8, s.lanes.s2, s.lanes.s3⟩ ∧
        t.lanes = phi ⟨a.s0, a.s1, a.s2, a.s3 ^^^ s.params.tag256⟩) ∧
      (∀ (i : Fin 4) (j : Nat), j < 8 →
        Memory.read t.dig (8 * i.val + j) = (lane t.lanes i).extractLsb' (8 * j) 8) ∧
      (∀ j, 32 ≤ j → j < 64 → Memory.read t.dig j = 0x00#8) ∧
      t.n = 0#5 ∧ t.dlc = 1#2 ∧ t.phase = .consumed ∧ t.resp = some .ok

/-- R145: FIN512 pads and absorbs as FIN256, XORs TAG512 into `s3`, applies PHI, squeezes to `D[0..31]`,
applies PHI again, squeezes to `D[32..63]`, sets `DLC` to 2 and `PH` to 1, leaves `n = 0`, and answers OK;
MISUSE, refusal and reserved words as FIN256. -/
def Obligations.Fin512WritesTheDigest : Prop :=
  decode 0x0300#16 = .command .fin512 ∧
  (∀ b : Byte, b ≠ 0x00#8 → decode (0x03#8 ++ b) = .reserved .operand) ∧
  (∀ s : State, s.err = true → exec .fin512 s = .next { s with resp := some (.fault s.errc) }) ∧
  (∀ s : State, s.err = false → s.phase = .consumed →
    exec .fin512 s = .next { s with err := true, errc := 1#2, resp := some (.fault 1#2) }) ∧
  config.tag512 = 0x200#64 ∧
  ∀ s : State, s.err = false → s.phase = .absorbing → s.n.toNat < 16 →
    ∃ t, exec .fin512 s = .next t ∧
      (∀ i, i < s.n.toNat → Memory.read t.buf i = Memory.read s.buf i) ∧
      Memory.read t.buf s.n.toNat = 0x01#8 ∧
      (∀ i, s.n.toNat < i → i < 16 → Memory.read t.buf i = 0x00#8) ∧
      (∃ a q : Lanes,
        a = phi ⟨s.lanes.s0 ^^^ loadWord t.buf 0, s.lanes.s1 ^^^ loadWord t.buf 8, s.lanes.s2, s.lanes.s3⟩ ∧
        q = phi ⟨a.s0, a.s1, a.s2, a.s3 ^^^ s.params.tag512⟩ ∧
        (∀ (i : Fin 4) (j : Nat), j < 8 →
          Memory.read t.dig (8 * i.val + j) = (lane q i).extractLsb' (8 * j) 8) ∧
        t.lanes = phi q) ∧
      (∀ (i : Fin 4) (j : Nat), j < 8 →
        Memory.read t.dig (32 + 8 * i.val + j) = (lane t.lanes i).extractLsb' (8 * j) 8) ∧
      t.n = 0#5 ∧ t.dlc = 2#2 ∧ t.phase = .consumed ∧ t.resp = some .ok

/-- R140, R145, frame: whatever FIN256 or FIN512 answers, no byte of `B` below `n` or from 16 on and no byte
of `D` from 64 on changes, nor do the pending events and the parameters; the fault flag changes only by
MISUSE; refused or misused, nothing of the hasher changes. -/
def Obligations.FinFrame : Prop :=
  ∀ (i : Instr) (s t : State), (i = .fin256 ∨ i = .fin512) → exec i s = .next t →
    t.input = s.input ∧ t.params = s.params ∧
    (∀ a, a < s.n.toNat ∨ 16 ≤ a → Memory.read t.buf a = Memory.read s.buf a) ∧
    (∀ a, 64 ≤ a → Memory.read t.dig a = Memory.read s.dig a) ∧
    (s.err = true ∨ s.phase = .absorbing → t.err = s.err ∧ t.errc = s.errc) ∧
    (s.err = true ∨ s.phase = .consumed →
      t.lanes = s.lanes ∧ t.n = s.n ∧ t.phase = s.phase ∧ t.dlc = s.dlc ∧
      (∀ a, Memory.read t.buf a = Memory.read s.buf a) ∧ ∀ a, Memory.read t.dig a = Memory.read s.dig a)

/-- R7, R145: the default tags (log 2) are distinct, and before the finalization PHI the states of the two
modes differ exactly in bits 8 and 9 of `s3`. -/
def Obligations.TagsSeparateTheModes : Prop :=
  config.tag256 ≠ config.tag512 ∧
  ∀ v : Lanes,
    (xorTag config.tag256 v).s0 = (xorTag config.tag512 v).s0 ∧
    (xorTag config.tag256 v).s1 = (xorTag config.tag512 v).s1 ∧
    (xorTag config.tag256 v).s2 = (xorTag config.tag512 v).s2 ∧
    ∀ k, (xorTag config.tag256 v).s3.getLsbD k ≠ (xorTag config.tag512 v).s3.getLsbD k ↔ k = 8 ∨ k = 9

/-! ### Whole-machine rules -/

/-- R154 (the spec marks its table derived): the phase machine, every cell of its table, from any state with
the count at rest; and reset. -/
def Obligations.PhaseMachineTable : Prop :=
  (∀ (s : State) (rest : List HostEvent), s.input = .reset :: rest →
    ∃ t, step s = .next t ∧ t.err = false ∧ t.phase = .absorbing ∧ t.n = 0#5 ∧ t.lanes = s.params.iv) ∧
  ∀ s : State, s.n.toNat < 16 →
    (s.err = false → s.phase = .absorbing →
      (∃ t, exec .new s = .next t ∧ t.err = false ∧ t.phase = .absorbing ∧ t.n = 0#5 ∧ t.lanes = s.params.iv ∧
        t.resp = some .ok) ∧
      (∀ b, ∃ t, exec (.upd b) s = .next t ∧ t.err = false ∧ t.phase = .absorbing ∧
        t.n.toNat = (if s.n.toNat = 15 then 0 else s.n.toNat + 1) ∧ t.resp = some .ok) ∧
      (∃ t, exec .fin256 s = .next t ∧ t.err = false ∧ t.phase = .consumed ∧ t.dlc = 1#2 ∧ t.resp = some .ok) ∧
      (∃ t, exec .fin512 s = .next t ∧ t.err = false ∧ t.phase = .consumed ∧ t.dlc = 2#2 ∧ t.resp = some .ok)) ∧
    (s.err = false → s.phase = .consumed →
      (∃ t, exec .new s = .next t ∧ t.err = false ∧ t.phase = .absorbing ∧ t.n = 0#5 ∧ t.lanes = s.params.iv ∧
        (∀ a, Memory.read t.dig a = 0x00#8) ∧ t.resp = some .ok) ∧
      ∀ i, i ≠ .new → exec i s = .next { s with err := true, errc := 1#2, resp := some (.fault 1#2) }) ∧
    (s.err = false → ∀ w why, decode w = .reserved why →
      present w s = .next { s with err := true, errc := 2#2, resp := some (.fault 2#2) }) ∧
    (s.err = true → ∀ w, present w s = .next { s with resp := some (.fault s.errc) })

/-- The invariant of the machine holds after every step from a state in which it holds: R31 items 1 to 3
(the spec marks R31 derived) with R24, R27, R28, R29; distinct tags (R7), in the field of log 15; and what
is the model's own: the canonical form of the two byte spaces (log 14) and the response port, none before
the first answer (log 5) and the stored fault on a faulted instance (log 13, deduced from R172 and R74). -/
def Obligations.StepKeepsTheInvariant : Prop :=
  ∀ s t : State, Inv s → step s = .next t → Inv t

/-- R31 (the spec marks it derived), R35; no response, zero bytes in `B` and their canonical form are the
model's choice (logs 4, 5, 13, 14): reset establishes the invariant, for every choice of the parameters with
distinct tags (R7; log 15). -/
def Obligations.ResetMeetsTheInvariant : Prop :=
  ∀ c : Config, c.TagsDistinct → Inv (State.resetWith c)

/-- R176 (the spec marks it derived): every step from a state of the invariant completes, and a legal
sequence of commands on an unfaulted instance runs to its end without a fault. -/
def Obligations.LegalSequencesComplete : Prop :=
  (∀ s : State, s.n.toNat < 16 → ∃ t, step s = .next t) ∧
  (∀ (is : List Instr) (s : State), s.n.toNat < 16 → s.err = false → legalSequence s.phase is = true →
    ∃ t, execAll is s = .next t ∧ t.err = false ∧ t.errc = s.errc ∧ t.n.toNat < 16 ∧
      (is ≠ [] → t.resp = some .ok))

/-- R20: the lanes change only by NEW, a UPD that fills the buffer, FIN256, FIN512 and reset, and only
through the micro-operations of R20. -/
def Obligations.LanesChangeOnlyByMicroOperations : Prop :=
  ∀ s t : State, step s = .next t → t.lanes ≠ s.lanes →
    ((∃ rest, s.input = .reset :: rest) ∧ t.lanes = s.params.iv) ∨
    (∃ w rest, s.input = .command w :: rest ∧
      ((decode w = .command .new ∧ t.lanes = s.params.iv) ∨
       (∃ b, decode w = .command (.upd b) ∧ s.n.toNat = 15 ∧
         t.lanes = phi (xorRate (loadWord t.buf 0) (loadWord t.buf 8) s.lanes)) ∨
       (decode w = .command .fin256 ∧
         t.lanes = phi (xorTag s.params.tag256 (phi (xorRate (loadWord t.buf 0) (loadWord t.buf 8) s.lanes)))) ∨
       (decode w = .command .fin512 ∧
         t.lanes =
           phi (phi (xorTag s.params.tag512 (phi (xorRate (loadWord t.buf 0) (loadWord t.buf 8) s.lanes)))))))

/-- R28, R29: `D` and `DLC` change only by NEW, FIN256, FIN512 and reset. -/
def Obligations.DigestChangesOnlyByItsWriters : Prop :=
  ∀ s t : State, step s = .next t → t.dig ≠ s.dig ∨ t.dlc ≠ s.dlc →
    ∃ rest, s.input = .reset :: rest ∨ s.input = .command 0x0000#16 :: rest ∨
      s.input = .command 0x0200#16 :: rest ∨ s.input = .command 0x0300#16 :: rest

/-- R61 (the spec marks it derived), R23: stale and reset contents of `B` never reach anything else: two
states that agree but for the bytes `B[i]`, `i >= n`, step to two states that agree so again and show the
same outputs. -/
def Obligations.StaleBytesNeverReachAnything : Prop :=
  ∀ s t s' : State, SameButStale s t → step s = .next s' →
    ∃ t', step t = .next t' ∧ SameButStale s' t' ∧ outputs t' = outputs s'

/-- R57, R36, R178: in a system of instances a merged stream of events gives each instance the state its own
stream alone gives it, and it completes exactly when each of them does; an event to one instance changes no
other. -/
def Obligations.InstancesAreIndependent : Prop :=
  (∀ (k : Nat) (stream : List (Fin k × HostEvent)) (sys sys' : Vector State k),
    deliverAll stream sys = .next sys' ↔ ∀ i : Fin k, receiveAll (streamOf i stream) sys[i] = .next sys'[i]) ∧
  (∀ (k : Nat) (i j : Fin k) (e : HostEvent) (sys sys' : Vector State k),
    deliver i e sys = .next sys' → j ≠ i → sys'[j] = sys[j])

/-! ### The message and its digest -/

/-- R31 item 5 (the spec marks it derived): after reset or NEW the empty message has been received, and UPD
b on an unfaulted instance that has received `m` leaves one that has received `m` followed by `b`. -/
def Obligations.ReceivedMessageInvariant : Prop :=
  (∀ c, Received [] (State.resetWith c)) ∧
  (∀ s, s.err = false → ∃ t, exec .new s = .next t ∧ Received [] t) ∧
  (∀ (m : List Byte) (b : Byte) (s : State), s.err = false → Received m s →
    ∃ t, exec (.upd b) s = .next t ∧ t.err = false ∧ Received (m ++ [b]) t)

/-- R151, and R156, which the spec marks derived: HASH m on any unfaulted instance, in any phase, runs
without fault and leaves `Hash256(m)`, 32 bytes, as the digest. -/
def Obligations.HashComputesHash256 : Prop :=
  ∀ (m : List Byte) (s : State), s.err = false →
    ∃ t, execAll (Pseudo.expand (.hash m)) s = .next t ∧ digestOf t = hash256 s.params m ∧
      (digestOf t).length = 32 ∧ t.err = false ∧ t.phase = .consumed ∧ t.dlc = 1#2 ∧ t.resp = some .ok

/-- R152, and R156, which the spec marks derived: HASH512 m likewise leaves `Hash512(m)`, 64 bytes. -/
def Obligations.Hash512ComputesHash512 : Prop :=
  ∀ (m : List Byte) (s : State), s.err = false →
    ∃ t, execAll (Pseudo.expand (.hash512 m)) s = .next t ∧ digestOf t = hash512 s.params m ∧
      (digestOf t).length = 64 ∧ t.err = false ∧ t.phase = .consumed ∧ t.dlc = 2#2 ∧ t.resp = some .ok

/-- R150, R153: whatever the partition of a message, UPDATE part by part is UPDATE of the whole, so the hash
of the parts is the hash of their concatenation; UPDATE is one UPD a byte, in order, and UPDATE of the empty
sequence is no command and changes nothing. -/
def Obligations.StreamingEquivalence : Prop :=
  (∀ m : List Byte, Pseudo.expand (.update m) = m.map .upd) ∧
  (∀ (parts : List (List Byte)) (i : Instr) (s : State),
    execAll (.new :: ((parts.map fun p => Pseudo.expand (.update p)).flatten ++ [i])) s =
      execAll (.new :: (Pseudo.expand (.update parts.flatten) ++ [i])) s) ∧
  (∀ (a b : List Byte) (s t : State), execAll (Pseudo.expand (.update a)) s = .next t →
    execAll (Pseudo.expand (.update (a ++ b))) s = execAll (Pseudo.expand (.update b)) t) ∧
  (∀ s : State, execAll (Pseudo.expand (.update [])) s = .next s)

/-- R156 (the spec marks it derived): the padded message is never empty, a whole number of blocks, one more
than the message has full ones, and determines the message. -/
def Obligations.PaddingIsInjective : Prop :=
  (∀ m, (pad m).length = 16 * (m.length / 16 + 1)) ∧
  (∀ m, (fullBlocks (pad m)).length = m.length / 16 + 1 ∧ ∀ k ∈ fullBlocks (pad m), k.length = 16) ∧
  (∀ m m', pad m = pad m' → m = m')

/-- R155 (the spec marks it derived): the lanes an executed command leaves are those its micro-operations
give, so each `permute` among them is one invocation of PHI: none in NEW, one in a UPD that fills the
buffer, two in FIN256, three in FIN512; so for a message of `L` bytes HASH makes `floor(L/16) + 2`
invocations and HASH512 `floor(L/16) + 3`. -/
def Obligations.PhiInvocationCounts : Prop :=
  (∀ (i : Instr) (s t : State), exec i s = .next t → t.resp = some .ok →
    t.lanes = runMicroOps (laneOps i s) s.lanes) ∧
  (∀ s : State, phiInvocations .new s = 0 ∧
    (∀ b, phiInvocations (.upd b) s = if s.n.toNat = 15 then 1 else 0) ∧
    phiInvocations .fin256 s = 2 ∧ phiInvocations .fin512 s = 3) ∧
  ∀ (m : List Byte) (s : State), s.err = false →
    phiCount (Pseudo.expand (.hash m)) s = m.length / 16 + 2 ∧
    phiCount (Pseudo.expand (.hash512 m)) s = m.length / 16 + 3

/-! ### Byte order -/

/-- R51: byte `j` of the Word loaded from index `a` is the byte at `a + j`, least significant first; the
absorb XORs the word at 0 into `s0` and the word at 8 into `s1`, and then applies PHI. -/
def Obligations.WordLoadIsLittleEndian : Prop :=
  (∀ (m : Memory) (a j : Nat), j < 8 → (loadWord m a).extractLsb' (8 * j) 8 = Memory.read m (a + j)) ∧
  (∀ s : State, (absorbBlock s).lanes =
    phi ⟨s.lanes.s0 ^^^ loadWord s.buf 0, s.lanes.s1 ^^^ loadWord s.buf 8, s.lanes.s2, s.lanes.s3⟩)

/-- R52: the squeeze stores bits `8j+7 : 8j` of lane `i` at `base + 8i + j` and writes no other byte. -/
def Obligations.SqueezeIsLittleEndian : Prop :=
  ∀ (m : Memory) (base : Nat) (v : Lanes),
    (∀ (i : Fin 4) (j : Nat), j < 8 →
      Memory.read (squeezeTo m base v) (base + 8 * i.val + j) = (lane v i).extractLsb' (8 * j) 8) ∧
    (∀ a, a < base ∨ base + 32 ≤ a → Memory.read (squeezeTo m base v) a = Memory.read m a)

/-- R53: loading and storing use the same byte order: a stored Word loads back. -/
def Obligations.StoredWordLoadsBack : Prop :=
  ∀ (m : Memory) (a : Nat) (v : Word), loadWord (storeWord m a v) a = v

/-- R81, R50: byte `D[i]` stands on bits `8i+7 : 8i` of the `D` port, and the host reads it at every index
`0..63` and at no other. -/
def Obligations.DigestPortShowsTheDigest : Prop :=
  ∀ (s : State) (i : Nat),
    (i < 64 → (outputs s).d.extractLsb' (8 * i) 8 = Memory.read s.dig i ∧
      hostReadDigest s i = some (Memory.read s.dig i)) ∧
    (64 ≤ i → hostReadDigest s i = none)

/-! ### F, STEP, PHI -/

/-- R91 (the spec marks it derived): both branches of `F` are `0 - 4*x*x`. -/
def Obligations.MapClosedForm : Prop :=
  ∀ x : Word, chaoticMap x = 0#64 - 4#64 * x * x

/-- R93: the multiplexed, the masked and the single datapath compute `F`. -/
def Obligations.MapRealisationsAgree : Prop :=
  ∀ x : Word, chaoticMapMux x = chaoticMap x ∧ chaoticMapMasked x = chaoticMap x ∧ chaoticMapSingle x = chaoticMap x

/-- R94 items 1 to 3 (the spec marks them derived): `F` is even; the top three input bits do not matter; bit
60 matters for odd inputs. -/
def Obligations.MapSymmetries : Prop :=
  chaoticMap 0#64 = 0#64 ∧ chaoticMap 0x8000000000000000#64 = 0#64 ∧
  chaoticMap 1#64 = 0xFFFFFFFFFFFFFFFC#64 ∧ chaoticMap 0xFFFFFFFFFFFFFFFF#64 = 0xFFFFFFFFFFFFFFFC#64 ∧
  (∀ x : Word, chaoticMap (0#64 - x) = chaoticMap x) ∧
  (∀ x : Word, chaoticMap (x + 0x2000000000000000#64) = chaoticMap x) ∧
  (∀ x : Word, chaoticMap x = chaoticMap (BitVec.ofNat 64 (x.toNat % 2 ^ 61))) ∧
  (∀ x : Word, chaoticMap (x + 0x1000000000000000#64) =
    chaoticMap x + BitVec.ofNat 64 (x.toNat % 2 * 2 ^ 63))

/-- R94 item 4 (the spec marks it derived): the two low output bits are 0; an input with `v` trailing zero
bits gives exactly `2v + 2` of them, or 0 when that is 64 or more. -/
def Obligations.MapTrailingZeros : Prop :=
  (∀ x : Word, (chaoticMap x).toNat % 4 = 0) ∧
  (∀ (x : Word) (v : Nat), x.toNat % 2 ^ v = 0 → x.toNat % 2 ^ (v + 1) ≠ 0 →
    (2 * v + 2 < 64 →
      (chaoticMap x).toNat % 2 ^ (2 * v + 2) = 0 ∧ (chaoticMap x).toNat % 2 ^ (2 * v + 3) ≠ 0) ∧
    (64 ≤ 2 * v + 2 → chaoticMap x = 0#64))

/-- R94 item 5 (the spec marks it derived): `F(x) = 0` exactly for the multiples of `2^31`. -/
def Obligations.MapZeros : Prop :=
  ∀ x : Word, chaoticMap x = 0#64 ↔ x.toNat % 2 ^ 31 = 0

/-- R115 items 1 to 3 (the spec marks them derived): the zero state is a fixed point of STEP and PHI; the
image of a state with one nonzero lane, for every value of that lane, names each coupling; the half-range
lane leaves only its right-shifted coupling. -/
def Obligations.LatticeSingleLaneImages : Prop :=
  latticeStep ⟨0, 0, 0, 0⟩ = ⟨0, 0, 0, 0⟩ ∧ phi ⟨0, 0, 0, 0⟩ = ⟨0, 0, 0, 0⟩ ∧
  (∀ x : Word,
    latticeStep ⟨x, 0, 0, 0⟩ = ⟨chaoticMap x, x <<< 11, 0, x >>> 13⟩ ∧
    latticeStep ⟨0, x, 0, 0⟩ = ⟨x >>> 31, chaoticMap x, x <<< 29, 0⟩ ∧
    latticeStep ⟨0, 0, x, 0⟩ = ⟨0, x >>> 23, chaoticMap x, x <<< 5⟩ ∧
    latticeStep ⟨0, 0, 0, x⟩ = ⟨x <<< 17, 0, x >>> 47, chaoticMap x⟩) ∧
  latticeStep ⟨1, 0, 0, 0⟩ = ⟨chaoticMap 1, 1 <<< 11, 0, 0⟩ ∧
  latticeStep ⟨0, 1, 0, 0⟩ = ⟨0, chaoticMap 1, 1 <<< 29, 0⟩ ∧
  latticeStep ⟨0, 0, 1, 0⟩ = ⟨0, 0, chaoticMap 1, 1 <<< 5⟩ ∧
  latticeStep ⟨0, 0, 0, 1⟩ = ⟨1 <<< 17, 0, 0, chaoticMap 1⟩ ∧
  latticeStep ⟨halfRange, 0, 0, 0⟩ = ⟨0, 0, 0, halfRange >>> 13⟩ ∧
  latticeStep ⟨0, halfRange, 0, 0⟩ = ⟨halfRange >>> 31, 0, 0, 0⟩ ∧
  latticeStep ⟨0, 0, halfRange, 0⟩ = ⟨0, halfRange >>> 23, 0, 0⟩ ∧
  latticeStep ⟨0, 0, 0, halfRange⟩ = ⟨0, 0, halfRange >>> 47, 0⟩

/-- R110 and its table, R112: lane `i` of STEP is `F` of lane `i`, XOR lane `i+1` shifted right, XOR lane
`i-1` shifted left, all from the old lanes; the packed operation is the same function. -/
def Obligations.LatticeStepByLane : Prop :=
  ∀ s : Lanes,
    (∀ i : Fin 4, lane (latticeStep s) i =
      chaoticMap (lane s i) ^^^ (lane s (i + 1) >>> rightShift i) ^^^ (lane s (i - 1) <<< leftShift i)) ∧
    latticeStepPacked s = latticeStep s

/-- R113: PHI is STEP applied eight times. -/
def Obligations.PhiIsEightSteps : Prop :=
  ∀ s : Lanes, phi s = latticeStep (latticeStep (latticeStep (latticeStep (latticeStep (latticeStep
    (latticeStep (latticeStep s)))))))

/-! ### The parameters -/

/-- R6, R7, R36, log 15: the parameters an instance is built with are constants; no step writes them, and
reset leaves them. -/
def Obligations.ParametersNeverChange : Prop :=
  (∀ s t : State, step s = .next t → t.params = s.params) ∧
  (∀ c : Config, (State.resetWith c).params = c)
end

