-- ==== Sys2Proof/Laws/State.lean ====
section
/-! SUPPORT. One lemma per field per register write, each true by rfl: no later proof unfolds a record update. -/

namespace Sys2Proof.Machine

/-! ### setLanes -/

@[simp] theorem setLanes_lanes (v : Lanes) (s : State) : (s.setLanes v).lanes = v := rfl
@[simp] theorem setLanes_buf (v : Lanes) (s : State) : (s.setLanes v).buf = s.buf := rfl
@[simp] theorem setLanes_n (v : Lanes) (s : State) : (s.setLanes v).n = s.n := rfl
@[simp] theorem setLanes_phase (v : Lanes) (s : State) : (s.setLanes v).phase = s.phase := rfl
@[simp] theorem setLanes_err (v : Lanes) (s : State) : (s.setLanes v).err = s.err := rfl
@[simp] theorem setLanes_errc (v : Lanes) (s : State) : (s.setLanes v).errc = s.errc := rfl
@[simp] theorem setLanes_dig (v : Lanes) (s : State) : (s.setLanes v).dig = s.dig := rfl
@[simp] theorem setLanes_dlc (v : Lanes) (s : State) : (s.setLanes v).dlc = s.dlc := rfl
@[simp] theorem setLanes_resp (v : Lanes) (s : State) : (s.setLanes v).resp = s.resp := rfl
@[simp] theorem setLanes_input (v : Lanes) (s : State) : (s.setLanes v).input = s.input := rfl
@[simp] theorem setLanes_params (v : Lanes) (s : State) : (s.setLanes v).params = s.params := rfl

/-! ### setBuf -/

@[simp] theorem setBuf_lanes (v : Memory) (s : State) : (s.setBuf v).lanes = s.lanes := rfl
@[simp] theorem setBuf_buf (v : Memory) (s : State) : (s.setBuf v).buf = v := rfl
@[simp] theorem setBuf_n (v : Memory) (s : State) : (s.setBuf v).n = s.n := rfl
@[simp] theorem setBuf_phase (v : Memory) (s : State) : (s.setBuf v).phase = s.phase := rfl
@[simp] theorem setBuf_err (v : Memory) (s : State) : (s.setBuf v).err = s.err := rfl
@[simp] theorem setBuf_errc (v : Memory) (s : State) : (s.setBuf v).errc = s.errc := rfl
@[simp] theorem setBuf_dig (v : Memory) (s : State) : (s.setBuf v).dig = s.dig := rfl
@[simp] theorem setBuf_dlc (v : Memory) (s : State) : (s.setBuf v).dlc = s.dlc := rfl
@[simp] theorem setBuf_resp (v : Memory) (s : State) : (s.setBuf v).resp = s.resp := rfl
@[simp] theorem setBuf_input (v : Memory) (s : State) : (s.setBuf v).input = s.input := rfl
@[simp] theorem setBuf_params (v : Memory) (s : State) : (s.setBuf v).params = s.params := rfl

/-! ### setCount -/

@[simp] theorem setCount_lanes (v : BitVec 5) (s : State) : (s.setCount v).lanes = s.lanes := rfl
@[simp] theorem setCount_buf (v : BitVec 5) (s : State) : (s.setCount v).buf = s.buf := rfl
@[simp] theorem setCount_n (v : BitVec 5) (s : State) : (s.setCount v).n = v := rfl
@[simp] theorem setCount_phase (v : BitVec 5) (s : State) : (s.setCount v).phase = s.phase := rfl
@[simp] theorem setCount_err (v : BitVec 5) (s : State) : (s.setCount v).err = s.err := rfl
@[simp] theorem setCount_errc (v : BitVec 5) (s : State) : (s.setCount v).errc = s.errc := rfl
@[simp] theorem setCount_dig (v : BitVec 5) (s : State) : (s.setCount v).dig = s.dig := rfl
@[simp] theorem setCount_dlc (v : BitVec 5) (s : State) : (s.setCount v).dlc = s.dlc := rfl
@[simp] theorem setCount_resp (v : BitVec 5) (s : State) : (s.setCount v).resp = s.resp := rfl
@[simp] theorem setCount_input (v : BitVec 5) (s : State) : (s.setCount v).input = s.input := rfl
@[simp] theorem setCount_params (v : BitVec 5) (s : State) : (s.setCount v).params = s.params := rfl

/-! ### setPhase -/

@[simp] theorem setPhase_lanes (v : Phase) (s : State) : (s.setPhase v).lanes = s.lanes := rfl
@[simp] theorem setPhase_buf (v : Phase) (s : State) : (s.setPhase v).buf = s.buf := rfl
@[simp] theorem setPhase_n (v : Phase) (s : State) : (s.setPhase v).n = s.n := rfl
@[simp] theorem setPhase_phase (v : Phase) (s : State) : (s.setPhase v).phase = v := rfl
@[simp] theorem setPhase_err (v : Phase) (s : State) : (s.setPhase v).err = s.err := rfl
@[simp] theorem setPhase_errc (v : Phase) (s : State) : (s.setPhase v).errc = s.errc := rfl
@[simp] theorem setPhase_dig (v : Phase) (s : State) : (s.setPhase v).dig = s.dig := rfl
@[simp] theorem setPhase_dlc (v : Phase) (s : State) : (s.setPhase v).dlc = s.dlc := rfl
@[simp] theorem setPhase_resp (v : Phase) (s : State) : (s.setPhase v).resp = s.resp := rfl
@[simp] theorem setPhase_input (v : Phase) (s : State) : (s.setPhase v).input = s.input := rfl
@[simp] theorem setPhase_params (v : Phase) (s : State) : (s.setPhase v).params = s.params := rfl

/-! ### setErr -/

@[simp] theorem setErr_lanes (v : Bool) (s : State) : (s.setErr v).lanes = s.lanes := rfl
@[simp] theorem setErr_buf (v : Bool) (s : State) : (s.setErr v).buf = s.buf := rfl
@[simp] theorem setErr_n (v : Bool) (s : State) : (s.setErr v).n = s.n := rfl
@[simp] theorem setErr_phase (v : Bool) (s : State) : (s.setErr v).phase = s.phase := rfl
@[simp] theorem setErr_err (v : Bool) (s : State) : (s.setErr v).err = v := rfl
@[simp] theorem setErr_errc (v : Bool) (s : State) : (s.setErr v).errc = s.errc := rfl
@[simp] theorem setErr_dig (v : Bool) (s : State) : (s.setErr v).dig = s.dig := rfl
@[simp] theorem setErr_dlc (v : Bool) (s : State) : (s.setErr v).dlc = s.dlc := rfl
@[simp] theorem setErr_resp (v : Bool) (s : State) : (s.setErr v).resp = s.resp := rfl
@[simp] theorem setErr_input (v : Bool) (s : State) : (s.setErr v).input = s.input := rfl
@[simp] theorem setErr_params (v : Bool) (s : State) : (s.setErr v).params = s.params := rfl

/-! ### setErrc -/

@[simp] theorem setErrc_lanes (v : BitVec 2) (s : State) : (s.setErrc v).lanes = s.lanes := rfl
@[simp] theorem setErrc_buf (v : BitVec 2) (s : State) : (s.setErrc v).buf = s.buf := rfl
@[simp] theorem setErrc_n (v : BitVec 2) (s : State) : (s.setErrc v).n = s.n := rfl
@[simp] theorem setErrc_phase (v : BitVec 2) (s : State) : (s.setErrc v).phase = s.phase := rfl
@[simp] theorem setErrc_err (v : BitVec 2) (s : State) : (s.setErrc v).err = s.err := rfl
@[simp] theorem setErrc_errc (v : BitVec 2) (s : State) : (s.setErrc v).errc = v := rfl
@[simp] theorem setErrc_dig (v : BitVec 2) (s : State) : (s.setErrc v).dig = s.dig := rfl
@[simp] theorem setErrc_dlc (v : BitVec 2) (s : State) : (s.setErrc v).dlc = s.dlc := rfl
@[simp] theorem setErrc_resp (v : BitVec 2) (s : State) : (s.setErrc v).resp = s.resp := rfl
@[simp] theorem setErrc_input (v : BitVec 2) (s : State) : (s.setErrc v).input = s.input := rfl
@[simp] theorem setErrc_params (v : BitVec 2) (s : State) : (s.setErrc v).params = s.params := rfl

/-! ### setDig -/

@[simp] theorem setDig_lanes (v : Memory) (s : State) : (s.setDig v).lanes = s.lanes := rfl
@[simp] theorem setDig_buf (v : Memory) (s : State) : (s.setDig v).buf = s.buf := rfl
@[simp] theorem setDig_n (v : Memory) (s : State) : (s.setDig v).n = s.n := rfl
@[simp] theorem setDig_phase (v : Memory) (s : State) : (s.setDig v).phase = s.phase := rfl
@[simp] theorem setDig_err (v : Memory) (s : State) : (s.setDig v).err = s.err := rfl
@[simp] theorem setDig_errc (v : Memory) (s : State) : (s.setDig v).errc = s.errc := rfl
@[simp] theorem setDig_dig (v : Memory) (s : State) : (s.setDig v).dig = v := rfl
@[simp] theorem setDig_dlc (v : Memory) (s : State) : (s.setDig v).dlc = s.dlc := rfl
@[simp] theorem setDig_resp (v : Memory) (s : State) : (s.setDig v).resp = s.resp := rfl
@[simp] theorem setDig_input (v : Memory) (s : State) : (s.setDig v).input = s.input := rfl
@[simp] theorem setDig_params (v : Memory) (s : State) : (s.setDig v).params = s.params := rfl

/-! ### setDlc -/

@[simp] theorem setDlc_lanes (v : BitVec 2) (s : State) : (s.setDlc v).lanes = s.lanes := rfl
@[simp] theorem setDlc_buf (v : BitVec 2) (s : State) : (s.setDlc v).buf = s.buf := rfl
@[simp] theorem setDlc_n (v : BitVec 2) (s : State) : (s.setDlc v).n = s.n := rfl
@[simp] theorem setDlc_phase (v : BitVec 2) (s : State) : (s.setDlc v).phase = s.phase := rfl
@[simp] theorem setDlc_err (v : BitVec 2) (s : State) : (s.setDlc v).err = s.err := rfl
@[simp] theorem setDlc_errc (v : BitVec 2) (s : State) : (s.setDlc v).errc = s.errc := rfl
@[simp] theorem setDlc_dig (v : BitVec 2) (s : State) : (s.setDlc v).dig = s.dig := rfl
@[simp] theorem setDlc_dlc (v : BitVec 2) (s : State) : (s.setDlc v).dlc = v := rfl
@[simp] theorem setDlc_resp (v : BitVec 2) (s : State) : (s.setDlc v).resp = s.resp := rfl
@[simp] theorem setDlc_input (v : BitVec 2) (s : State) : (s.setDlc v).input = s.input := rfl
@[simp] theorem setDlc_params (v : BitVec 2) (s : State) : (s.setDlc v).params = s.params := rfl

/-! ### setResp -/

@[simp] theorem setResp_lanes (v : Option Response) (s : State) : (s.setResp v).lanes = s.lanes := rfl
@[simp] theorem setResp_buf (v : Option Response) (s : State) : (s.setResp v).buf = s.buf := rfl
@[simp] theorem setResp_n (v : Option Response) (s : State) : (s.setResp v).n = s.n := rfl
@[simp] theorem setResp_phase (v : Option Response) (s : State) : (s.setResp v).phase = s.phase := rfl
@[simp] theorem setResp_err (v : Option Response) (s : State) : (s.setResp v).err = s.err := rfl
@[simp] theorem setResp_errc (v : Option Response) (s : State) : (s.setResp v).errc = s.errc := rfl
@[simp] theorem setResp_dig (v : Option Response) (s : State) : (s.setResp v).dig = s.dig := rfl
@[simp] theorem setResp_dlc (v : Option Response) (s : State) : (s.setResp v).dlc = s.dlc := rfl
@[simp] theorem setResp_resp (v : Option Response) (s : State) : (s.setResp v).resp = v := rfl
@[simp] theorem setResp_input (v : Option Response) (s : State) : (s.setResp v).input = s.input := rfl
@[simp] theorem setResp_params (v : Option Response) (s : State) : (s.setResp v).params = s.params := rfl

/-! ### setInput -/

@[simp] theorem setInput_lanes (v : List HostEvent) (s : State) : (s.setInput v).lanes = s.lanes := rfl
@[simp] theorem setInput_buf (v : List HostEvent) (s : State) : (s.setInput v).buf = s.buf := rfl
@[simp] theorem setInput_n (v : List HostEvent) (s : State) : (s.setInput v).n = s.n := rfl
@[simp] theorem setInput_phase (v : List HostEvent) (s : State) : (s.setInput v).phase = s.phase := rfl
@[simp] theorem setInput_err (v : List HostEvent) (s : State) : (s.setInput v).err = s.err := rfl
@[simp] theorem setInput_errc (v : List HostEvent) (s : State) : (s.setInput v).errc = s.errc := rfl
@[simp] theorem setInput_dig (v : List HostEvent) (s : State) : (s.setInput v).dig = s.dig := rfl
@[simp] theorem setInput_dlc (v : List HostEvent) (s : State) : (s.setInput v).dlc = s.dlc := rfl
@[simp] theorem setInput_resp (v : List HostEvent) (s : State) : (s.setInput v).resp = s.resp := rfl
@[simp] theorem setInput_input (v : List HostEvent) (s : State) : (s.setInput v).input = v := rfl
@[simp] theorem setInput_params (v : List HostEvent) (s : State) : (s.setInput v).params = s.params := rfl

end Sys2Proof.Machine
end

