-- ==== Sys2Proof/Laws/Ops.lean ====
section
/-! SUPPORT. What each shared operation of Machine/Ops.lean can do, said once: the checks of a command,
taking a fault, refusing, reset; and what a step does with each event. -/

namespace Sys2Proof.Machine

variable {s t : State} {body : State → State}

/-! ### Taking a fault, refusing, responding -/

theorem raise_eq (c : FaultCause) (s : State) :
    raise c s = { s with err := true, errc := c.code, resp := some (.fault c.code) } := rfl

theorem refuse_eq (s : State) : refuse s = { s with resp := some (.fault s.errc) } := rfl

theorem respondOk_eq (s : State) : respondOk s = { s with resp := some .ok } := rfl

theorem assertReset_eq (s : State) : assertReset s = { State.resetWith s.params with input := s.input } := rfl

/-! ### A command that is legal in both phases -/

theorem anyPhaseCommand_runs (he : s.err = false) :
    anyPhaseCommand body s = .next (respondOk (body s)) := by
  simp [anyPhaseCommand, he]

theorem anyPhaseCommand_refused (he : s.err = true) : anyPhaseCommand body s = .next (refuse s) := by
  simp [anyPhaseCommand, he]

/-- Everything `anyPhaseCommand` can do. -/
theorem anyPhaseCommand_cases (h : anyPhaseCommand body s = .next t) :
    (s.err = true ∧ t = refuse s) ∨ (s.err = false ∧ t = respondOk (body s)) := by
  cases he : s.err with
  | true =>
    rw [anyPhaseCommand_refused he] at h
    cases h
    exact .inl ⟨rfl, rfl⟩
  | false =>
    rw [anyPhaseCommand_runs he] at h
    cases h
    exact .inr ⟨rfl, rfl⟩

/-! ### A command of the hasher -/

theorem hasherCommand_runs (he : s.err = false) (hp : s.phase = .absorbing) (hn : s.n.toNat < rateBytes) :
    hasherCommand body s = .next (respondOk (body s)) := by
  simp [hasherCommand, he, hp, hn]

theorem hasherCommand_refused (he : s.err = true) : hasherCommand body s = .next (refuse s) := by
  simp [hasherCommand, he]

theorem hasherCommand_misuse (he : s.err = false) (hp : s.phase = .consumed) :
    hasherCommand body s = .next (raise .misuse s) := by
  simp [hasherCommand, he, hp]

theorem hasherCommand_overrun (he : s.err = false) (hp : s.phase = .absorbing)
    (hn : ¬ s.n.toNat < rateBytes) : hasherCommand body s = .fault .bufferIndex := by
  simp [hasherCommand, he, hp, hn]

/-- Everything `hasherCommand` can do when it answers a next state. -/
theorem hasherCommand_cases (h : hasherCommand body s = .next t) :
    (s.err = true ∧ t = refuse s) ∨ (s.err = false ∧ s.phase = .consumed ∧ t = raise .misuse s) ∨
      (s.err = false ∧ s.phase = .absorbing ∧ s.n.toNat < rateBytes ∧ t = respondOk (body s)) := by
  cases he : s.err with
  | true =>
    rw [hasherCommand_refused he] at h
    cases h
    exact .inl ⟨rfl, rfl⟩
  | false =>
    cases hp : s.phase with
    | consumed =>
      rw [hasherCommand_misuse he hp] at h
      cases h
      exact .inr (.inl ⟨rfl, rfl, rfl⟩)
    | absorbing =>
      by_cases hn : s.n.toNat < rateBytes
      · rw [hasherCommand_runs he hp hn] at h
        cases h
        exact .inr (.inr ⟨rfl, rfl, hn, rfl⟩)
      · rw [hasherCommand_overrun he hp hn] at h
        cases h

/-! ### The events of a step -/

theorem step_cons {e : HostEvent} {rest : List HostEvent} (h : s.input = e :: rest) :
    step s = receive e (s.setInput rest) := by
  simp [step, h]

theorem step_nil (h : s.input = []) : step s = .next s := by
  simp [step, h]

theorem present_refused {w : CommandWord} (he : s.err = true) : present w s = .next (refuse s) := by
  simp [present, he]

theorem present_decoded {w : CommandWord} (he : s.err = false) : present w s = executeDecoded (decode w) s := by
  simp [present, he]

end Sys2Proof.Machine
end

