-- ==== Sys2Proof/Laws/Memory.lean ====
section
/-! SUPPORT. The laws of the byte spaces: reading after a write, the canonical form, the little-endian word
load and store, the zero fill. They hold of every list of cells, canonical or not, unless said. -/

namespace Sys2Proof.Machine

/-! ### One byte -/

theorem read_erase_same (m : Memory) (a : Nat) : Memory.read (Memory.erase m a) a = blankByte := by
  induction m with
  | nil => rfl
  | cons c m ih =>
    simp only [Memory.erase]
    split
    · exact ih
    · rename_i h
      simp [Memory.read, h, ih]

theorem read_erase_other {a b : Nat} (m : Memory) (h : b ≠ a) :
    Memory.read (Memory.erase m a) b = Memory.read m b := by
  induction m with
  | nil => rfl
  | cons c m ih =>
    by_cases hc : c.1 = a
    · have hb : c.1 ≠ b := fun e => h (e.symm.trans hc)
      simp [Memory.erase, Memory.read, hc, ih, show ¬ a = b from fun e => h e.symm]
    · simp [Memory.erase, Memory.read, hc, ih]

theorem read_place_same (m : Memory) (a : Nat) (v : Byte) (h : ∀ c ∈ m, c.1 ≠ a) :
    Memory.read (Memory.place m (a, v)) a = v := by
  induction m with
  | nil => simp [Memory.place, Memory.read]
  | cons c m ih =>
    have hc : c.1 ≠ a := h c (by simp)
    simp only [Memory.place]
    split
    · simp [Memory.read]
    · simp [Memory.read, hc, ih fun d hd => h d (by simp [hd])]

theorem read_place_other {a b : Nat} (m : Memory) (v : Byte) (h : b ≠ a) :
    Memory.read (Memory.place m (a, v)) b = Memory.read m b := by
  have hab : ¬ a = b := fun e => h e.symm
  induction m with
  | nil => simp [Memory.place, Memory.read, hab]
  | cons c m ih =>
    simp only [Memory.place]
    split
    · simp [Memory.read, hab]
    · simp [Memory.read, ih]

theorem mem_erase {m : Memory} {a : Nat} {c : Host.Cell} :
    c ∈ Memory.erase m a ↔ c ∈ m ∧ c.1 ≠ a := by
  induction m with
  | nil => simp [Memory.erase]
  | cons d m ih =>
    by_cases hd : d.1 = a
    · simp only [Memory.erase, hd, if_true, ih, List.mem_cons]
      constructor
      · rintro ⟨h, h'⟩
        exact ⟨.inr h, h'⟩
      · rintro ⟨rfl | h, h'⟩
        · exact absurd hd h'
        · exact ⟨h, h'⟩
    · simp only [Memory.erase, hd, if_false, ih, List.mem_cons]
      constructor
      · rintro (rfl | ⟨h, h'⟩)
        · exact ⟨.inl rfl, hd⟩
        · exact ⟨.inr h, h'⟩
      · rintro ⟨rfl | h, h'⟩
        · exact .inl rfl
        · exact .inr ⟨h, h'⟩

theorem mem_place {m : Memory} {c d : Host.Cell} : d ∈ Memory.place m c ↔ d = c ∨ d ∈ m := by
  induction m with
  | nil => simp [Memory.place]
  | cons e m ih =>
    simp only [Memory.place]
    split
    · simp
    · simp only [List.mem_cons, ih]
      tauto

@[simp] theorem read_write_same (m : Memory) (a : Nat) (v : Byte) :
    Memory.read (Memory.write m a v) a = v := by
  simp only [Memory.write]
  split
  · rename_i h
    rw [read_erase_same, h]
  · exact read_place_same _ _ _ fun c hc => (mem_erase.mp hc).2

theorem read_write_other {a b : Nat} (m : Memory) (v : Byte) (h : b ≠ a) :
    Memory.read (Memory.write m a v) b = Memory.read m b := by
  simp only [Memory.write]
  split
  · exact read_erase_other m h
  · rw [read_place_other _ _ h, read_erase_other m h]

theorem read_write (m : Memory) (a b : Nat) (v : Byte) :
    Memory.read (Memory.write m a v) b = if b = a then v else Memory.read m b := by
  split
  · rename_i h
    rw [h, read_write_same]
  · rename_i h
    exact read_write_other m v h

@[simp] theorem read_nil (a : Nat) : Memory.read [] a = 0x00#8 := rfl

/-! ### The canonical form and the bounds of a space -/

theorem erase_wf {m : Memory} (a : Nat) (h : Memory.wf m) : Memory.wf (Memory.erase m a) := by
  refine ⟨?_, fun c hc => h.2 c (mem_erase.mp hc).1⟩
  obtain ⟨hp, -⟩ := h
  induction m with
  | nil => exact .nil
  | cons c m ih =>
    rw [List.pairwise_cons] at hp
    simp only [Memory.erase]
    split
    · exact ih hp.2
    · exact List.pairwise_cons.mpr ⟨fun d hd => hp.1 d (mem_erase.mp hd).1, ih hp.2⟩

theorem place_wf {m : Memory} {a : Nat} {v : Byte} (h : Memory.wf m) (ha : ∀ c ∈ m, c.1 ≠ a)
    (hv : v ≠ blankByte) : Memory.wf (Memory.place m (a, v)) := by
  refine ⟨?_, fun c hc => ?_⟩
  · obtain ⟨hp, -⟩ := h
    induction m with
    | nil => simp [Memory.place]
    | cons c m ih =>
      rw [List.pairwise_cons] at hp
      simp only [Memory.place]
      split
      · rename_i hlt
        refine List.pairwise_cons.mpr ⟨fun d hd => ?_, List.pairwise_cons.mpr hp⟩
        rcases List.mem_cons.mp hd with rfl | hd
        · exact hlt
        · exact Nat.lt_trans hlt (hp.1 d hd)
      · rename_i hlt
        have hc : c.1 ≠ a := ha c (by simp)
        refine List.pairwise_cons.mpr ⟨fun d hd => ?_, ih (fun d hd => ha d (by simp [hd])) hp.2⟩
        rcases mem_place.mp hd with rfl | hd
        · exact Nat.lt_of_le_of_ne (Nat.le_of_not_lt hlt) hc
        · exact hp.1 d hd
  · rcases mem_place.mp hc with rfl | hc
    · exact hv
    · exact h.2 c hc

theorem write_wf {m : Memory} (a : Nat) (v : Byte) (h : Memory.wf m) : Memory.wf (Memory.write m a v) := by
  simp only [Memory.write]
  split
  · exact erase_wf a h
  · rename_i hv
    exact place_wf (erase_wf a h) (fun c hc => (mem_erase.mp hc).2) hv

theorem write_within {size a : Nat} {m : Memory} (v : Byte) (ha : a < size) (h : Memory.within size m) :
    Memory.within size (Memory.write m a v) := by
  intro c hc
  simp only [Memory.write] at hc
  split at hc
  · exact h c (mem_erase.mp hc).1
  · rcases mem_place.mp hc with rfl | hc
    · exact ha
    · exact h c (mem_erase.mp hc).1

theorem nil_wf : Memory.wf [] := ⟨.nil, by simp⟩

theorem nil_within (size : Nat) : Memory.within size [] := by simp [Memory.within]

/-- A space of `size` bytes reads as blank outside its indices. -/
theorem read_outside {size : Nat} {m : Memory} (h : Memory.within size m) {a : Nat} (ha : size ≤ a) :
    Memory.read m a = 0x00#8 := by
  induction m with
  | nil => rfl
  | cons c m ih =>
    have hc : c.1 < size := h c (by simp)
    have : c.1 ≠ a := by omega
    simp [Memory.read, this, ih fun d hd => h d (by simp [hd])]

/-- A canonical memory lists exactly the addresses that do not read as blank. -/
theorem read_of_mem {m : Memory} (h : Memory.wf m) {c : Host.Cell} (hc : c ∈ m) : Memory.read m c.1 = c.2 := by
  induction m with
  | nil => simp at hc
  | cons d m ih =>
    have hp := List.pairwise_cons.mp h.1
    rcases List.mem_cons.mp hc with rfl | hc
    · simp [Memory.read]
    · have hlt := hp.1 c hc
      have : d.1 ≠ c.1 := by omega
      simp [Memory.read, this, ih ⟨hp.2, fun e he => h.2 e (by simp [he])⟩ hc]

/-- Memory that is canonical and reads as blank everywhere is empty: equal memories are equal data. -/
theorem wf_blank_eq_nil {m : Memory} (h : Memory.wf m) (hr : ∀ a, Memory.read m a = 0x00#8) : m = [] := by
  cases m with
  | nil => rfl
  | cons c m => exact absurd ((read_of_mem h (by simp)).symm.trans (hr c.1)) (h.2 c (by simp))

/-! ### Zero fill -/

theorem read_zeroFill (m : Memory) (a k b : Nat) :
    Memory.read (zeroFill m a k) b = if a ≤ b ∧ b < a + k then 0x00#8 else Memory.read m b := by
  induction k generalizing m a with
  | zero => simp [zeroFill, show ¬ (a ≤ b ∧ b < a) by omega]
  | succ k ih =>
    rw [zeroFill, ih, read_write]
    by_cases h1 : b = a
    · subst h1
      simp
    · by_cases h2 : a ≤ b ∧ b < a + (k + 1)
      · rw [if_pos (by omega), if_pos h2]
      · rw [if_neg (by omega), if_neg h1, if_neg h2]

theorem zeroFill_wf {m : Memory} (a k : Nat) (h : Memory.wf m) : Memory.wf (zeroFill m a k) := by
  induction k generalizing m a with
  | zero => exact h
  | succ k ih => exact ih _ (write_wf a _ h)

theorem zeroFill_within {size a k : Nat} {m : Memory} (hk : a + k ≤ size) (h : Memory.within size m) :
    Memory.within size (zeroFill m a k) := by
  induction k generalizing m a with
  | zero => exact h
  | succ k ih => exact ih (by omega) (write_within _ (by omega) h)

/-! ### The little-endian word store -/

theorem read_storeBytes (m : Memory) (a k b : Nat) (v : Word) :
    Memory.read (storeBytes m a v k) b =
      if a ≤ b ∧ b < a + k then v.extractLsb' (8 * (b - a)) 8 else Memory.read m b := by
  induction k generalizing m a v with
  | zero => simp [storeBytes, show ¬ (a ≤ b ∧ b < a) by omega]
  | succ k ih =>
    rw [storeBytes, ih, read_write]
    by_cases h1 : b = a
    · subst h1
      rw [if_neg (by omega), if_pos rfl, if_pos (by omega)]
      apply BitVec.eq_of_getLsbD_eq
      intro i hi
      simp [hi]
    · rw [if_neg h1]
      by_cases h2 : a ≤ b ∧ b < a + (k + 1)
      · rw [if_pos (by omega), if_pos h2]
        apply BitVec.eq_of_getLsbD_eq
        intro i hi
        have : 8 + (8 * (b - (a + 1)) + i) = 8 * (b - a) + i := by omega
        simp [hi, this]
      · rw [if_neg (by omega), if_neg h2]

theorem storeBytes_wf {m : Memory} (a k : Nat) (v : Word) (h : Memory.wf m) : Memory.wf (storeBytes m a v k) := by
  induction k generalizing m a v with
  | zero => exact h
  | succ k ih => exact ih _ _ (write_wf a _ h)

theorem storeBytes_within {size a k : Nat} {m : Memory} (v : Word) (hk : a + k ≤ size)
    (h : Memory.within size m) : Memory.within size (storeBytes m a v k) := by
  induction k generalizing m a v with
  | zero => exact h
  | succ k ih => exact ih _ (by omega) (write_within _ (by omega) h)

theorem storeWord_wf {m : Memory} (a : Nat) (v : Word) (h : Memory.wf m) : Memory.wf (storeWord m a v) :=
  storeBytes_wf a 8 v h

theorem storeWord_within {size a : Nat} {m : Memory} (v : Word) (hk : a + 8 ≤ size)
    (h : Memory.within size m) : Memory.within size (storeWord m a v) :=
  storeBytes_within v hk h

/-! ### The little-endian load -/

theorem memReadNat_lt (m : Memory) (a k : Nat) : memReadNat m a k < 256 ^ k := by
  induction k generalizing a with
  | zero => simp [memReadNat]
  | succ k ih =>
    have h1 := (Memory.read m a).isLt
    have h2 := ih (a + 1)
    rw [memReadNat, pow_succ]
    omega

theorem memReadNat_congr {m m' : Memory} (a k : Nat)
    (h : ∀ i, a ≤ i → i < a + k → Memory.read m i = Memory.read m' i) :
    memReadNat m a k = memReadNat m' a k := by
  induction k generalizing a with
  | zero => rfl
  | succ k ih =>
    rw [memReadNat, memReadNat, h a (by omega) (by omega), ih (a + 1) fun i h1 h2 => h i (by omega) (by omega)]

theorem loadWord_congr {m m' : Memory} (a : Nat)
    (h : ∀ i, a ≤ i → i < a + 8 → Memory.read m i = Memory.read m' i) : loadWord m a = loadWord m' a := by
  rw [loadWord, loadWord, memReadNat_congr a 8 h]

/-- Byte `j` of what is loaded is the byte at address `a + j`. -/
theorem memReadNat_byte (m : Memory) (a k j : Nat) (h : j < k) :
    memReadNat m a k / 256 ^ j % 256 = (Memory.read m (a + j)).toNat := by
  induction k generalizing a j with
  | zero => omega
  | succ k ih =>
    have h1 := (Memory.read m a).isLt
    cases j with
    | zero =>
      simp only [memReadNat, pow_zero, Nat.div_one, Nat.add_zero]
      omega
    | succ j =>
      have hd : ((Memory.read m a).toNat + 256 * memReadNat m (a + 1) k) / 256 = memReadNat m (a + 1) k := by
        omega
      rw [memReadNat, pow_succ', ← Nat.div_div_eq_div_mul, hd, ih (a + 1) j (by omega)]
      congr 2
      omega

/-! ### A run of bytes -/

@[simp] theorem bytesFrom_length (m : Memory) (a k : Nat) : (bytesFrom m a k).length = k := by
  induction k generalizing a with
  | zero => rfl
  | succ k ih => simp [bytesFrom, ih]

theorem bytesFrom_getElem (m : Memory) (a k i : Nat) (h : i < (bytesFrom m a k).length) :
    (bytesFrom m a k)[i] = Memory.read m (a + i) := by
  induction k generalizing a i with
  | zero => simp [bytesFrom] at h
  | succ k ih =>
    cases i with
    | zero => simp [bytesFrom]
    | succ i =>
      simp only [bytesFrom, List.getElem_cons_succ]
      rw [ih (a + 1) i (by simpa [bytesFrom] using h)]
      congr 1
      omega

end Sys2Proof.Machine
end

