-- ==== Sys2Proof/Laws/Sponge.lean ====
section
/-! SUPPORT. What each operation of Machine/Sponge.lean and Machine/Flags.lean writes, field by field, and
what it leaves. -/

namespace Sys2Proof.Machine

/-! ### Flags -/

theorem markAbsorbing_eq (s : State) : markAbsorbing s = { s with phase := .absorbing, dlc := 0#2 } := rfl

theorem markConsumed_eq (c : BitVec 2) (s : State) :
    markConsumed c s = { s with dlc := c, phase := .consumed } := rfl

/-! ### Absorb, push, pad -/

theorem absorbBlock_eq (s : State) :
    absorbBlock s =
      { s with lanes := phi (xorRate (loadWord s.buf 0) (loadWord s.buf 8) s.lanes), n := 0#5 } := rfl

theorem pushByte_eq (b : Byte) (s : State) :
    pushByte b s = { s with buf := Memory.write s.buf s.n.toNat b, n := s.n + 1#5 } := rfl

theorem padBuffer_eq (s : State) :
    padBuffer s = { s with buf := (padBuffer s).buf } := rfl

theorem freshHasher_eq (s : State) :
    freshHasher s = { s with lanes := s.params.iv, n := 0#5, phase := .absorbing, dig := [], dlc := 0#2 } := rfl

theorem count_succ {s : State} (hn : s.n.toNat < rateBytes) : (s.n + 1#5).toNat = s.n.toNat + 1 := by
  have : s.n.toNat < 16 := hn
  simp only [BitVec.toNat_add, BitVec.toNat_ofNat]
  omega

/-- UPD below the last index only stores the byte and counts it. -/
theorem appendByte_below {b : Byte} {s : State} (hn : s.n.toNat + 1 < rateBytes) :
    appendByte b s = pushByte b s := by
  have h : (pushByte b s).n.toNat = s.n.toNat + 1 := count_succ (Nat.lt_of_succ_lt hn)
  simp only [appendByte]
  rw [if_neg (by omega)]

/-- UPD at the last index absorbs the block it completes. -/
theorem appendByte_full {b : Byte} {s : State} (hn : s.n.toNat + 1 = rateBytes) :
    appendByte b s = absorbBlock (pushByte b s) := by
  have h : (pushByte b s).n.toNat = s.n.toNat + 1 := count_succ (by omega)
  simp only [appendByte]
  rw [if_pos (by omega)]

theorem read_padBuffer {s : State} (hn : s.n.toNat < rateBytes) (i : Nat) :
    Memory.read (padBuffer s).buf i =
      if i < s.n.toNat then Memory.read s.buf i
      else if i = s.n.toNat then padByte
      else if i < rateBytes then 0x00#8
      else Memory.read s.buf i := by
  have h16 : rateBytes = 16 := rfl
  simp only [padBuffer, setBuf_buf, read_zeroFill, read_write]
  by_cases h1 : i < s.n.toNat
  · rw [if_neg (by omega), if_neg (by omega), if_pos h1]
  · by_cases h2 : i = s.n.toNat
    · rw [if_neg (by omega), if_pos h2, if_neg h1, if_pos h2]
    · by_cases h3 : i < rateBytes
      · rw [if_pos (by omega), if_neg h1, if_neg h2, if_pos h3]
      · rw [if_neg (by omega), if_neg h2, if_neg h1, if_neg h2, if_neg h3]

theorem padBuffer_wf {s : State} (h : Memory.wf s.buf) : Memory.wf (padBuffer s).buf :=
  zeroFill_wf _ _ (write_wf _ _ h)

theorem padBuffer_within {s : State} (hn : s.n.toNat < rateBytes) (h : Memory.within rateBytes s.buf) :
    Memory.within rateBytes (padBuffer s).buf := by
  have h16 : rateBytes = 16 := rfl
  exact zeroFill_within (by omega) (write_within _ hn h)

/-! ### Finalization and squeeze -/

theorem finalState_eq (tag : Word) (s : State) :
    finalState tag s =
      { s with lanes := (finalState tag s).lanes, buf := (padBuffer s).buf, n := 0#5 } := rfl

theorem finalState_lanes (tag : Word) (s : State) :
    (finalState tag s).lanes =
      phi (xorTag tag (phi (xorRate (loadWord (padBuffer s).buf 0) (loadWord (padBuffer s).buf 8) s.lanes))) := rfl

/-- Byte `i` of a squeeze of the lanes: byte `i mod 8` of lane `i / 8`, little-endian (20_memory.md R52). -/
def squeezedByte (v : Lanes) (i : Nat) : Byte :=
  if i < 8 then v.s0.extractLsb' (8 * i) 8
  else if i < 16 then v.s1.extractLsb' (8 * (i - 8)) 8
  else if i < 24 then v.s2.extractLsb' (8 * (i - 16)) 8
  else v.s3.extractLsb' (8 * (i - 24)) 8

theorem read_squeezeTo (m : Memory) (base : Nat) (v : Lanes) (a : Nat) :
    Memory.read (squeezeTo m base v) a =
      if base ≤ a ∧ a < base + 32 then squeezedByte v (a - base) else Memory.read m a := by
  simp only [squeezeTo, storeWord, read_storeBytes, squeezedByte]
  split_ifs <;> first | rfl | omega

theorem squeezeTo_wf {m : Memory} (base : Nat) (v : Lanes) (h : Memory.wf m) :
    Memory.wf (squeezeTo m base v) :=
  storeWord_wf _ _ (storeWord_wf _ _ (storeWord_wf _ _ (storeWord_wf _ _ h)))

theorem squeezeTo_within {size base : Nat} {m : Memory} (v : Lanes) (hb : base + 32 ≤ size)
    (h : Memory.within size m) : Memory.within size (squeezeTo m base v) :=
  storeWord_within _ (by omega) (storeWord_within _ (by omega)
    (storeWord_within _ (by omega) (storeWord_within _ (by omega) h)))

theorem finish256_eq (s : State) :
    finish256 s =
      { s with
        lanes := (finalState s.params.tag256 s).lanes, buf := (padBuffer s).buf, n := 0#5, phase := .consumed,
        dig := zeroFill (squeezeTo s.dig 0 (finalState s.params.tag256 s).lanes) squeezeBytes (digestBytes - squeezeBytes), dlc := 1#2 } := by
  simp only [finish256, squeeze, State.setDig, markConsumed, State.setDlc, State.setPhase, finalState,
    State.setLanes, absorbBlock, State.setCount, padBuffer, State.setBuf]

theorem finish512_eq (s : State) :
    finish512 s =
      { s with
        lanes := phi (finalState s.params.tag512 s).lanes, buf := (padBuffer s).buf, n := 0#5, phase := .consumed,
        dig := squeezeTo (squeezeTo s.dig 0 (finalState s.params.tag512 s).lanes) squeezeBytes (phi (finalState s.params.tag512 s).lanes),
        dlc := 2#2 } := by
  simp only [finish512, squeeze, State.setDig, markConsumed, State.setDlc, State.setPhase, finalState,
    State.setLanes, absorbBlock, State.setCount, padBuffer, State.setBuf]

end Sys2Proof.Machine
end

