-- ==== Sys2Proof/Laws/Fields.lean ====
section
/-! SUPPORT. Every shared operation, field by field: what it writes and what it leaves. A proof reads a field of a
result through these lemmas and never unfolds the operation. -/

namespace Sys2Proof.Machine

/-! ### raise -/

@[simp] theorem raise_lanes (c : FaultCause) (s : State) : (raise c s).lanes = s.lanes := rfl
@[simp] theorem raise_buf (c : FaultCause) (s : State) : (raise c s).buf = s.buf := rfl
@[simp] theorem raise_n (c : FaultCause) (s : State) : (raise c s).n = s.n := rfl
@[simp] theorem raise_phase (c : FaultCause) (s : State) : (raise c s).phase = s.phase := rfl
@[simp] theorem raise_err (c : FaultCause) (s : State) : (raise c s).err = true := rfl
@[simp] theorem raise_errc (c : FaultCause) (s : State) : (raise c s).errc = c.code := rfl
@[simp] theorem raise_dig (c : FaultCause) (s : State) : (raise c s).dig = s.dig := rfl
@[simp] theorem raise_dlc (c : FaultCause) (s : State) : (raise c s).dlc = s.dlc := rfl
@[simp] theorem raise_resp (c : FaultCause) (s : State) : (raise c s).resp = some (.fault c.code) := rfl
@[simp] theorem raise_input (c : FaultCause) (s : State) : (raise c s).input = s.input := rfl
@[simp] theorem raise_params (c : FaultCause) (s : State) : (raise c s).params = s.params := rfl

/-! ### refuse -/

@[simp] theorem refuse_lanes (s : State) : (refuse s).lanes = s.lanes := rfl
@[simp] theorem refuse_buf (s : State) : (refuse s).buf = s.buf := rfl
@[simp] theorem refuse_n (s : State) : (refuse s).n = s.n := rfl
@[simp] theorem refuse_phase (s : State) : (refuse s).phase = s.phase := rfl
@[simp] theorem refuse_err (s : State) : (refuse s).err = s.err := rfl
@[simp] theorem refuse_errc (s : State) : (refuse s).errc = s.errc := rfl
@[simp] theorem refuse_dig (s : State) : (refuse s).dig = s.dig := rfl
@[simp] theorem refuse_dlc (s : State) : (refuse s).dlc = s.dlc := rfl
@[simp] theorem refuse_resp (s : State) : (refuse s).resp = some (.fault s.errc) := rfl
@[simp] theorem refuse_input (s : State) : (refuse s).input = s.input := rfl
@[simp] theorem refuse_params (s : State) : (refuse s).params = s.params := rfl

/-! ### respondOk -/

@[simp] theorem respondOk_lanes (s : State) : (respondOk s).lanes = s.lanes := rfl
@[simp] theorem respondOk_buf (s : State) : (respondOk s).buf = s.buf := rfl
@[simp] theorem respondOk_n (s : State) : (respondOk s).n = s.n := rfl
@[simp] theorem respondOk_phase (s : State) : (respondOk s).phase = s.phase := rfl
@[simp] theorem respondOk_err (s : State) : (respondOk s).err = s.err := rfl
@[simp] theorem respondOk_errc (s : State) : (respondOk s).errc = s.errc := rfl
@[simp] theorem respondOk_dig (s : State) : (respondOk s).dig = s.dig := rfl
@[simp] theorem respondOk_dlc (s : State) : (respondOk s).dlc = s.dlc := rfl
@[simp] theorem respondOk_resp (s : State) : (respondOk s).resp = some .ok := rfl
@[simp] theorem respondOk_input (s : State) : (respondOk s).input = s.input := rfl
@[simp] theorem respondOk_params (s : State) : (respondOk s).params = s.params := rfl

/-! ### markAbsorbing -/

@[simp] theorem markAbsorbing_lanes (s : State) : (markAbsorbing s).lanes = s.lanes := rfl
@[simp] theorem markAbsorbing_buf (s : State) : (markAbsorbing s).buf = s.buf := rfl
@[simp] theorem markAbsorbing_n (s : State) : (markAbsorbing s).n = s.n := rfl
@[simp] theorem markAbsorbing_phase (s : State) : (markAbsorbing s).phase = .absorbing := rfl
@[simp] theorem markAbsorbing_err (s : State) : (markAbsorbing s).err = s.err := rfl
@[simp] theorem markAbsorbing_errc (s : State) : (markAbsorbing s).errc = s.errc := rfl
@[simp] theorem markAbsorbing_dig (s : State) : (markAbsorbing s).dig = s.dig := rfl
@[simp] theorem markAbsorbing_dlc (s : State) : (markAbsorbing s).dlc = 0#2 := rfl
@[simp] theorem markAbsorbing_resp (s : State) : (markAbsorbing s).resp = s.resp := rfl
@[simp] theorem markAbsorbing_input (s : State) : (markAbsorbing s).input = s.input := rfl
@[simp] theorem markAbsorbing_params (s : State) : (markAbsorbing s).params = s.params := rfl

/-! ### markConsumed -/

@[simp] theorem markConsumed_lanes (c : BitVec 2) (s : State) : (markConsumed c s).lanes = s.lanes := rfl
@[simp] theorem markConsumed_buf (c : BitVec 2) (s : State) : (markConsumed c s).buf = s.buf := rfl
@[simp] theorem markConsumed_n (c : BitVec 2) (s : State) : (markConsumed c s).n = s.n := rfl
@[simp] theorem markConsumed_phase (c : BitVec 2) (s : State) : (markConsumed c s).phase = .consumed := rfl
@[simp] theorem markConsumed_err (c : BitVec 2) (s : State) : (markConsumed c s).err = s.err := rfl
@[simp] theorem markConsumed_errc (c : BitVec 2) (s : State) : (markConsumed c s).errc = s.errc := rfl
@[simp] theorem markConsumed_dig (c : BitVec 2) (s : State) : (markConsumed c s).dig = s.dig := rfl
@[simp] theorem markConsumed_dlc (c : BitVec 2) (s : State) : (markConsumed c s).dlc = c := rfl
@[simp] theorem markConsumed_resp (c : BitVec 2) (s : State) : (markConsumed c s).resp = s.resp := rfl
@[simp] theorem markConsumed_input (c : BitVec 2) (s : State) : (markConsumed c s).input = s.input := rfl
@[simp] theorem markConsumed_params (c : BitVec 2) (s : State) : (markConsumed c s).params = s.params := rfl

/-! ### pushByte -/

@[simp] theorem pushByte_lanes (b : Byte) (s : State) : (pushByte b s).lanes = s.lanes := rfl
@[simp] theorem pushByte_buf (b : Byte) (s : State) :
    (pushByte b s).buf = Memory.write s.buf s.n.toNat b := rfl
@[simp] theorem pushByte_n (b : Byte) (s : State) : (pushByte b s).n = s.n + 1#5 := rfl
@[simp] theorem pushByte_phase (b : Byte) (s : State) : (pushByte b s).phase = s.phase := rfl
@[simp] theorem pushByte_err (b : Byte) (s : State) : (pushByte b s).err = s.err := rfl
@[simp] theorem pushByte_errc (b : Byte) (s : State) : (pushByte b s).errc = s.errc := rfl
@[simp] theorem pushByte_dig (b : Byte) (s : State) : (pushByte b s).dig = s.dig := rfl
@[simp] theorem pushByte_dlc (b : Byte) (s : State) : (pushByte b s).dlc = s.dlc := rfl
@[simp] theorem pushByte_resp (b : Byte) (s : State) : (pushByte b s).resp = s.resp := rfl
@[simp] theorem pushByte_input (b : Byte) (s : State) : (pushByte b s).input = s.input := rfl
@[simp] theorem pushByte_params (b : Byte) (s : State) : (pushByte b s).params = s.params := rfl

/-! ### absorbBlock -/

@[simp] theorem absorbBlock_lanes (s : State) :
    (absorbBlock s).lanes = phi (xorRate (loadWord s.buf 0) (loadWord s.buf 8) s.lanes) := rfl
@[simp] theorem absorbBlock_buf (s : State) : (absorbBlock s).buf = s.buf := rfl
@[simp] theorem absorbBlock_n (s : State) : (absorbBlock s).n = 0#5 := rfl
@[simp] theorem absorbBlock_phase (s : State) : (absorbBlock s).phase = s.phase := rfl
@[simp] theorem absorbBlock_err (s : State) : (absorbBlock s).err = s.err := rfl
@[simp] theorem absorbBlock_errc (s : State) : (absorbBlock s).errc = s.errc := rfl
@[simp] theorem absorbBlock_dig (s : State) : (absorbBlock s).dig = s.dig := rfl
@[simp] theorem absorbBlock_dlc (s : State) : (absorbBlock s).dlc = s.dlc := rfl
@[simp] theorem absorbBlock_resp (s : State) : (absorbBlock s).resp = s.resp := rfl
@[simp] theorem absorbBlock_input (s : State) : (absorbBlock s).input = s.input := rfl
@[simp] theorem absorbBlock_params (s : State) : (absorbBlock s).params = s.params := rfl

/-! ### padBuffer -/

@[simp] theorem padBuffer_lanes (s : State) : (padBuffer s).lanes = s.lanes := rfl
@[simp] theorem padBuffer_n (s : State) : (padBuffer s).n = s.n := rfl
@[simp] theorem padBuffer_phase (s : State) : (padBuffer s).phase = s.phase := rfl
@[simp] theorem padBuffer_err (s : State) : (padBuffer s).err = s.err := rfl
@[simp] theorem padBuffer_errc (s : State) : (padBuffer s).errc = s.errc := rfl
@[simp] theorem padBuffer_dig (s : State) : (padBuffer s).dig = s.dig := rfl
@[simp] theorem padBuffer_dlc (s : State) : (padBuffer s).dlc = s.dlc := rfl
@[simp] theorem padBuffer_resp (s : State) : (padBuffer s).resp = s.resp := rfl
@[simp] theorem padBuffer_input (s : State) : (padBuffer s).input = s.input := rfl
@[simp] theorem padBuffer_params (s : State) : (padBuffer s).params = s.params := rfl

/-! ### freshHasher -/

@[simp] theorem freshHasher_lanes (s : State) : (freshHasher s).lanes = s.params.iv := rfl
@[simp] theorem freshHasher_buf (s : State) : (freshHasher s).buf = s.buf := rfl
@[simp] theorem freshHasher_n (s : State) : (freshHasher s).n = 0#5 := rfl
@[simp] theorem freshHasher_phase (s : State) : (freshHasher s).phase = .absorbing := rfl
@[simp] theorem freshHasher_err (s : State) : (freshHasher s).err = s.err := rfl
@[simp] theorem freshHasher_errc (s : State) : (freshHasher s).errc = s.errc := rfl
@[simp] theorem freshHasher_dig (s : State) : (freshHasher s).dig = [] := rfl
@[simp] theorem freshHasher_dlc (s : State) : (freshHasher s).dlc = 0#2 := rfl
@[simp] theorem freshHasher_resp (s : State) : (freshHasher s).resp = s.resp := rfl
@[simp] theorem freshHasher_input (s : State) : (freshHasher s).input = s.input := rfl
@[simp] theorem freshHasher_params (s : State) : (freshHasher s).params = s.params := rfl

/-! ### appendByte -/

@[simp] theorem appendByte_buf (b : Byte) (s : State) :
    (appendByte b s).buf = Memory.write s.buf s.n.toNat b := by
  simp only [appendByte]; split <;> rfl
@[simp] theorem appendByte_phase (b : Byte) (s : State) : (appendByte b s).phase = s.phase := by
  simp only [appendByte]; split <;> rfl
@[simp] theorem appendByte_err (b : Byte) (s : State) : (appendByte b s).err = s.err := by
  simp only [appendByte]; split <;> rfl
@[simp] theorem appendByte_errc (b : Byte) (s : State) : (appendByte b s).errc = s.errc := by
  simp only [appendByte]; split <;> rfl
@[simp] theorem appendByte_dig (b : Byte) (s : State) : (appendByte b s).dig = s.dig := by
  simp only [appendByte]; split <;> rfl
@[simp] theorem appendByte_dlc (b : Byte) (s : State) : (appendByte b s).dlc = s.dlc := by
  simp only [appendByte]; split <;> rfl
@[simp] theorem appendByte_resp (b : Byte) (s : State) : (appendByte b s).resp = s.resp := by
  simp only [appendByte]; split <;> rfl
@[simp] theorem appendByte_input (b : Byte) (s : State) : (appendByte b s).input = s.input := by
  simp only [appendByte]; split <;> rfl
@[simp] theorem appendByte_params (b : Byte) (s : State) : (appendByte b s).params = s.params := by
  simp only [appendByte]; split <;> rfl

/-! ### finalState -/

@[simp] theorem finalState_buf (tag : Word) (s : State) :
    (finalState tag s).buf = (padBuffer s).buf := by rw [finalState_eq]
@[simp] theorem finalState_n (tag : Word) (s : State) : (finalState tag s).n = 0#5 := by rw [finalState_eq]
@[simp] theorem finalState_phase (tag : Word) (s : State) :
    (finalState tag s).phase = s.phase := by rw [finalState_eq]
@[simp] theorem finalState_err (tag : Word) (s : State) :
    (finalState tag s).err = s.err := by rw [finalState_eq]
@[simp] theorem finalState_errc (tag : Word) (s : State) :
    (finalState tag s).errc = s.errc := by rw [finalState_eq]
@[simp] theorem finalState_dig (tag : Word) (s : State) :
    (finalState tag s).dig = s.dig := by rw [finalState_eq]
@[simp] theorem finalState_dlc (tag : Word) (s : State) :
    (finalState tag s).dlc = s.dlc := by rw [finalState_eq]
@[simp] theorem finalState_resp (tag : Word) (s : State) :
    (finalState tag s).resp = s.resp := by rw [finalState_eq]
@[simp] theorem finalState_input (tag : Word) (s : State) :
    (finalState tag s).input = s.input := by rw [finalState_eq]
@[simp] theorem finalState_params (tag : Word) (s : State) :
    (finalState tag s).params = s.params := by rw [finalState_eq]

/-! ### finish256 -/

@[simp] theorem finish256_lanes (s : State) :
    (finish256 s).lanes = (finalState s.params.tag256 s).lanes := by rw [finish256_eq]
@[simp] theorem finish256_buf (s : State) :
    (finish256 s).buf = (padBuffer s).buf := by rw [finish256_eq]
@[simp] theorem finish256_n (s : State) : (finish256 s).n = 0#5 := by rw [finish256_eq]
@[simp] theorem finish256_phase (s : State) :
    (finish256 s).phase = .consumed := by rw [finish256_eq]
@[simp] theorem finish256_err (s : State) : (finish256 s).err = s.err := by rw [finish256_eq]
@[simp] theorem finish256_errc (s : State) :
    (finish256 s).errc = s.errc := by rw [finish256_eq]
@[simp] theorem finish256_dig (s : State) :
    (finish256 s).dig = zeroFill (squeezeTo s.dig 0 (finalState s.params.tag256 s).lanes) squeezeBytes
      (digestBytes - squeezeBytes) := by rw [finish256_eq]
@[simp] theorem finish256_dlc (s : State) : (finish256 s).dlc = 1#2 := by rw [finish256_eq]
@[simp] theorem finish256_resp (s : State) :
    (finish256 s).resp = s.resp := by rw [finish256_eq]
@[simp] theorem finish256_input (s : State) :
    (finish256 s).input = s.input := by rw [finish256_eq]
@[simp] theorem finish256_params (s : State) :
    (finish256 s).params = s.params := by rw [finish256_eq]

/-! ### finish512 -/

@[simp] theorem finish512_lanes (s : State) :
    (finish512 s).lanes = phi (finalState s.params.tag512 s).lanes := by rw [finish512_eq]
@[simp] theorem finish512_buf (s : State) :
    (finish512 s).buf = (padBuffer s).buf := by rw [finish512_eq]
@[simp] theorem finish512_n (s : State) : (finish512 s).n = 0#5 := by rw [finish512_eq]
@[simp] theorem finish512_phase (s : State) :
    (finish512 s).phase = .consumed := by rw [finish512_eq]
@[simp] theorem finish512_err (s : State) : (finish512 s).err = s.err := by rw [finish512_eq]
@[simp] theorem finish512_errc (s : State) :
    (finish512 s).errc = s.errc := by rw [finish512_eq]
@[simp] theorem finish512_dig (s : State) :
    (finish512 s).dig = squeezeTo (squeezeTo s.dig 0 (finalState s.params.tag512 s).lanes) squeezeBytes
      (phi (finalState s.params.tag512 s).lanes) := by rw [finish512_eq]
@[simp] theorem finish512_dlc (s : State) : (finish512 s).dlc = 2#2 := by rw [finish512_eq]
@[simp] theorem finish512_resp (s : State) :
    (finish512 s).resp = s.resp := by rw [finish512_eq]
@[simp] theorem finish512_input (s : State) :
    (finish512 s).input = s.input := by rw [finish512_eq]
@[simp] theorem finish512_params (s : State) :
    (finish512 s).params = s.params := by rw [finish512_eq]

end Sys2Proof.Machine
end

