-- ==== Sys2Proof/Laws/LaneOps.lean ====
section
/-! SUPPORT. The small lemmas of `runMicroOps` and `laneOps` (Safety.lean). -/

namespace Sys2Proof.Machine

@[simp] theorem runMicroOps_nil (v : Lanes) : runMicroOps [] v = v := rfl

@[simp] theorem runMicroOps_cons (o : MicroOp) (ops : List MicroOp) (v : Lanes) :
    runMicroOps (o :: ops) v = runMicroOps ops (o.apply v) := rfl

theorem runMicroOps_append (ops ops' : List MicroOp) (v : Lanes) :
    runMicroOps (ops ++ ops') v = runMicroOps ops' (runMicroOps ops v) := List.foldl_append

@[simp] theorem runMicroOps_absorbOps (m : Memory) (v : Lanes) :
    runMicroOps (absorbOps m) v = phi (xorRate (loadWord m 0) (loadWord m 8) v) := rfl

theorem laneOps_upd_full {b : Byte} {s : State} (hn : s.n.toNat + 1 = rateBytes) :
    laneOps (.upd b) s = absorbOps (pushByte b s).buf := if_pos hn

theorem laneOps_upd_below {b : Byte} {s : State} (hn : s.n.toNat + 1 ≠ rateBytes) :
    laneOps (.upd b) s = [] := if_neg hn

end Sys2Proof.Machine
end

