-- ==== Sys2Proof/Laws/PerInstr.lean ====
section
/-! SUPPORT. Statements made per instruction (LAWS.json): an instruction as syntax and as its word. -/

/-- An instruction is well formed, its word splits into the fields it is written with (30_encoding.md R70,
R72), and that word selects the row of its mnemonic and no row of another (R71). -/
def Sys2Proof.Laws.EncodesAsFields.Statement (i : Sys2Proof.Instr) : Prop :=
  i.wellFormed = true ∧ Sys2Proof.splitCommand (Sys2Proof.encode i) = i.fields ∧
    ∀ r ∈ Sys2Proof.opcodeTable, r.selects (Sys2Proof.encode i) = decide (r.mnemonic = i.mnemonic)

theorem Sys2Proof.Laws.EncodesAsFields.new : Sys2Proof.Laws.EncodesAsFields.Statement .new := by
  refine ⟨by decide, by decide, by decide⟩

theorem Sys2Proof.Laws.EncodesAsFields.upd (b : Sys2Proof.Byte) :
    Sys2Proof.Laws.EncodesAsFields.Statement (.upd b) := by
  have every : ∀ b : Sys2Proof.Byte, Sys2Proof.Laws.EncodesAsFields.Statement (.upd b) := by
    unfold Sys2Proof.Laws.EncodesAsFields.Statement
    decide +kernel
  exact every b

theorem Sys2Proof.Laws.EncodesAsFields.fin256 : Sys2Proof.Laws.EncodesAsFields.Statement .fin256 := by
  refine ⟨by decide, by decide, by decide⟩

theorem Sys2Proof.Laws.EncodesAsFields.fin512 : Sys2Proof.Laws.EncodesAsFields.Statement .fin512 := by
  refine ⟨by decide, by decide, by decide⟩
end

