-- ==== Sys2Proof/Machine/Assembler.lean ====
section
/-! DEFINITION. The notation of command streams (30_encoding.md R75, R76): one command per line, mnemonic in
capitals, operand after one space, `;` starts a comment. Lines are lists of characters. DESIGN CHOICE where
R75 is silent: log 12. -/

namespace Sys2Proof.Machine

/-- The value of a hexadecimal digit. -/
def hexDigit (c : Char) : Option Nat :=
  let k := c.toNat
  if 48 ≤ k ∧ k ≤ 57 then some (k - 48)
  else if 65 ≤ k ∧ k ≤ 70 then some (k - 55)
  else if 97 ≤ k ∧ k ≤ 102 then some (k - 87)
  else none

/-- A numeral in a base of at most 16, all of its characters digits of the base, at least one. -/
def numeralFrom (base : Nat) : Nat → List Char → Option Nat
  | acc, [] => some acc
  | acc, c :: cs =>
    match hexDigit c with
    | some d => if d < base then numeralFrom base (base * acc + d) cs else none
    | none => none

/-- A byte from a numeral's value: 0..255, else no operand (R72). -/
def byteOf (v : Option Nat) : Option Byte :=
  match v with
  | some k => if k < 256 then some (BitVec.ofNat 8 k) else none
  | none => none

/-- The byte of an ASCII character. -/
def asciiByte (c : Char) : Option Byte := if c.toNat < 128 then some (BitVec.ofNat 8 c.toNat) else none

/-- The operand of UPD: `0x..` hex, or decimal 0..255, or a quoted single ASCII character (R75). -/
def parseByte (cs : List Char) : Option Byte :=
  match cs with
  | [] => none
  | ['\'', c, '\''] => asciiByte c
  | '0' :: 'x' :: d :: ds => byteOf (numeralFrom 16 0 (d :: ds))
  | d :: ds => byteOf (numeralFrom 10 0 (d :: ds))

/-- Bytes as pairs of hex digits, first byte first, spaces for reading only (00_scope.md R12). -/
def parseHexBytes : List Char → Option (List Byte)
  | [] => some []
  | ' ' :: cs => parseHexBytes cs
  | a :: b :: cs =>
    match hexDigit a, hexDigit b, parseHexBytes cs with
    | some h, some l, some bs => some (BitVec.ofNat 8 (16 * h + l) :: bs)
    | _, _, _ => none
  | [_] => none

/-- The characters of a quoted string after its opening quote, up to the closing one, which ends the text. -/
def parseQuoted : List Char → Option (List Byte)
  | [] => none
  | ['"'] => some []
  | c :: cs =>
    match asciiByte c, parseQuoted cs with
    | some b, some bs => if c = '"' then none else some (b :: bs)
    | _, _ => none

/-- The operand of a pseudo-instruction: a quoted string or hex (R76, 00_scope.md R12). -/
def parseBytes (cs : List Char) : Option (List Byte) :=
  match cs with
  | '"' :: rest => parseQuoted rest
  | _ => parseHexBytes cs

/-- The line without its comment; a `;` inside quotes starts none. The flag says whether a double quote is
open. -/
def stripComment : Bool → List Char → List Char
  | _, [] => []
  | true, c :: cs => c :: stripComment (decide (c ≠ '"')) cs
  | false, '\'' :: c :: '\'' :: cs => '\'' :: c :: '\'' :: stripComment false cs
  | false, c :: cs => if c = ';' then [] else c :: stripComment (decide (c = '"')) cs

/-- The line without the spaces at its end. -/
def dropEndSpaces (cs : List Char) : List Char := (cs.reverse.dropWhile (· = ' ')).reverse

/-- The commands of one line; an empty line has none, and text that is neither a command nor a
pseudo-instruction of R75 and R76 is refused. DESIGN CHOICE (log 12): the empty sequence is written `""`; a bare
`UPDATE`, `HASH` or `HASH512`, with or without a space after it (an empty hex list), is refused. -/
def parseLine (line : List Char) : Option (List Instr) :=
  match dropEndSpaces (stripComment false line) with
  | [] => some []
  | ['N', 'E', 'W'] => some [.new]
  | ['F', 'I', 'N', '2', '5', '6'] => some [.fin256]
  | ['F', 'I', 'N', '5', '1', '2'] => some [.fin512]
  | 'U' :: 'P' :: 'D' :: ' ' :: operand =>
    match parseByte operand with
    | some b => some [.upd b]
    | none => none
  | 'U' :: 'P' :: 'D' :: 'A' :: 'T' :: 'E' :: ' ' :: operand =>
    match parseBytes operand with
    | some m => some (Pseudo.expand (.update m))
    | none => none
  | 'H' :: 'A' :: 'S' :: 'H' :: ' ' :: operand =>
    match parseBytes operand with
    | some m => some (Pseudo.expand (.hash m))
    | none => none
  | 'H' :: 'A' :: 'S' :: 'H' :: '5' :: '1' :: '2' :: ' ' :: operand =>
    match parseBytes operand with
    | some m => some (Pseudo.expand (.hash512 m))
    | none => none
  | _ => none

/-- The commands of a stream of lines, in order. -/
def assemble : List (List Char) → Option (List Instr)
  | [] => some []
  | line :: rest =>
    match parseLine line, assemble rest with
    | some is, some more => some (is ++ more)
    | _, _ => none

end Sys2Proof.Machine
end

