-- ==== Sys2Proof/Tests/Slice0.lean ====
section
/-! SUPPORT. Tests: expected values are the spec's own (the rule or the section of 95_test_vectors.md is named
at each), and for every statement with hypotheses a state and operands that meet them. -/

namespace Sys2Proof.Tests

open Sys2Proof Sys2Proof.Machine

/-- The state an outcome goes on to. -/
def nextState (o : Host.Outcome State Fault Refusal) : Option State :=
  match o with
  | .next s => some s
  | .fault _ => none
  | .refused _ => none

/-- The reset state with another count and phase. -/
def at_ (n : BitVec 5) (p : Phase) : State := { State.reset with n := n, phase := p }

/-- A consumed state as FIN256 leaves its registers, `D[0] = 0xE1`. -/
def consumed : State :=
  { State.reset with phase := .consumed, dlc := 1#2, dig := [(0, 0xE1#8)], resp := some .ok }

/-- A faulted state (MISUSE). -/
def faulted : State := { consumed with err := true, errc := 1#2, resp := some (.fault 1#2) }

/-! ### WellFormed: each check refuses an ill-formed term (R71, R72, R73) -/

theorem test_undefined_opcode_refused :
    (CommandFields.mk 0x04#8 0x00#8).opcodeDefined = false ∧
      (CommandFields.mk 0x04#8 0x00#8).wellFormed = false := by decide

theorem test_operand_on_new_refused :
    (CommandFields.mk 0x00#8 0x01#8).operandLegal = false ∧
      (CommandFields.mk 0x00#8 0x01#8).wellFormed = false := by decide

theorem test_operand_on_fin_refused :
    (CommandFields.mk 0x02#8 0x01#8).wellFormed = false ∧ (CommandFields.mk 0x03#8 0x80#8).wellFormed = false := by
  decide

theorem test_legal_fields_accepted :
    (CommandFields.mk 0x00#8 0x00#8).wellFormed = true ∧ (CommandFields.mk 0x01#8 0xFF#8).wellFormed = true := by
  decide

/-! ### Decode: words written bit by bit from R70 and R71 (`op` in bits 15..8, `imm8` in bits 7..0) -/

theorem test_decode_new : decode 0b0000000000000000#16 = .command .new := by decide

theorem test_decode_upd : decode 0b0000000101100011#16 = .command (.upd 0x63#8) := by decide

theorem test_decode_fin256 : decode 0b0000001000000000#16 = .command .fin256 := by decide

theorem test_decode_fin512 : decode 0b0000001100000000#16 = .command .fin512 := by decide

theorem test_encode : encode .new = 0b0000000000000000#16 ∧ encode (.upd 0x63#8) = 0b0000000101100011#16 ∧
    encode .fin256 = 0b0000001000000000#16 ∧ encode .fin512 = 0b0000001100000000#16 := by decide

/-- R73. -/
theorem test_decode_reserved : decode 0b0000001000000001#16 = .reserved .operand ∧
    decode 0b0000010000000000#16 = .reserved .opcode := by decide

theorem test_table_word : decodeTableWord 16 0x0141 = some (.upd 0x41#8) ∧ decodeTableWord 16 0x0300 = some .fin512 ∧
    decodeTableWord 16 0x0301 = none := by decide

/-! ### F, STEP, PHI: the worked examples of R90, R110, R113 -/

theorem test_map : chaoticMap 0x0000000000000003#64 = 0xFFFFFFFFFFFFFFDC#64 ∧
    chaoticMap 0x8000000000000001#64 = 0xFFFFFFFFFFFFFFFC#64 := by decide

theorem test_step : latticeStep ⟨1, 2, 3, 4⟩ =
    ⟨0xFFFFFFFFFFF7FFFC#64, 0xFFFFFFFFFFFFF7F0#64, 0xFFFFFFFFBFFFFFDC#64, 0xFFFFFFFFFFFFFFA0#64⟩ := by decide

theorem test_phi : phi defaultIV =
    ⟨0x1A608DF6C09FFB37#64, 0x85C0A0888A6572EE#64, 0x71BD2177CBCCA73F#64, 0xBCA6ADF8EF787B72#64⟩ := by
  decide +kernel

/-! ### One step of each command -/

/-- R131: on a consumed instance NEW clears the digest. -/
theorem test_new : (nextState (exec .new consumed)).map (fun t => (t.phase, t.dlc, t.dig)) =
    some (.absorbing, 0#2, []) := by decide

/-- R132: `UPD 0x63` from the NEW state. -/
theorem test_upd_first : (nextState (exec (.upd 0x63#8) State.reset)).map (fun t => (t.n, t.buf, t.lanes)) =
    some (1#5, [(0, 0x63#8)], defaultIV) := by decide

/-- The bytes `00 01 .. 0E`, in the buffer. -/
def fifteen : Memory := (List.range 14).map fun k => (k + 1, BitVec.ofNat 8 (k + 1))

/-- R130, R132: the 16th byte of the block `00 01 .. 0F` from `S = IV`. -/
theorem test_upd_sixteenth : (nextState (exec (.upd 0x0F#8) { State.reset with buf := fifteen, n := 15#5 })).map
    (fun t => (t.n, t.lanes)) = some (0#5, ⟨0xF4A2EB458076F605#64, 0xF33413F7F27CB49B#64, 0xCCB0FA0778DB2E83#64,
      0x53ABB84A8D316453#64⟩) := by decide +kernel

/-- R140: the empty message. -/
theorem test_fin256 : (nextState (exec .fin256 State.reset)).map digestOf =
    some [0xe1, 0x0d, 0xfa, 0xc6, 0x0f, 0xd8, 0x8c, 0x48, 0xc7, 0xe4, 0x62, 0xff, 0x4b, 0x8d, 0x6d, 0x4a,
      0x7f, 0x81, 0x13, 0xa7, 0xcd, 0x9e, 0x29, 0x30, 0x15, 0xa8, 0xe1, 0xb2, 0x5b, 0xa5, 0xca, 0x43] := by
  decide +kernel

/-- R145: the empty message. -/
theorem test_fin512 : (nextState (exec .fin512 State.reset)).map digestOf =
    some ([0xc4, 0xcc, 0x2b, 0xe7, 0x85, 0x64, 0x09, 0x25, 0xbe, 0x62, 0x28, 0xf0, 0x07, 0x4a, 0x70, 0x73,
      0x91, 0xbf, 0x12, 0x4e, 0x62, 0x32, 0xdb, 0x4d, 0x69, 0x6e, 0xdc, 0xfd, 0xc7, 0xfb, 0xd5, 0x9a] ++
      [0x03, 0x8b, 0x72, 0xd6, 0x48, 0x13, 0x50, 0x83, 0xc8, 0x55, 0xbe, 0x6b, 0xfb, 0x54, 0xfe, 0xb1,
      0xaf, 0x6d, 0xa3, 0x4a, 0xa0, 0x0f, 0xc0, 0xe7, 0x72, 0x2d, 0x4f, 0x0a, 0xca, 0xc1, 0xaa, 0x1d]) := by
  decide +kernel

/-- R154, R172: MISUSE and ILLEGAL write the code and the response alone; a faulted instance keeps its code. -/
theorem test_faults :
    nextState (exec .fin256 consumed) = some faulted ∧
    (nextState (present 0x0400#16 consumed)).map (fun t => (t.err, t.errc, t.dig)) =
      some (true, 2#2, consumed.dig) ∧
    nextState (present 0x0400#16 faulted) = some faulted := by decide

/-- The row of the table asked for is what the very next step runs (log 11). -/
theorem test_placed_word : (nextState (step (State.reset.withFetchWord 16 0x0163))).map (fun t => (t.n, t.input)) =
    some (1#5, []) := by decide

/-! ### The notation of R75 and R76 -/

theorem test_assemble_commands :
    parseLine "UPD 0x63         ; 0x0163".toList = some [.upd 0x63#8] ∧ parseLine "UPD 'c'".toList = some [.upd 0x63#8] ∧
    parseLine "UPD 99".toList = some [.upd 0x63#8] ∧ parseLine "UPD 256".toList = none := by decide +kernel

theorem test_assemble_pseudo :
    parseLine "HASH \"cat\"".toList = some [.new, .upd 0x63#8, .upd 0x61#8, .upd 0x74#8, .fin256] ∧
    parseLine "UPDATE 63 61".toList = some [.upd 0x63#8, .upd 0x61#8] ∧ parseLine "UPDATE \"\"".toList = some [] ∧
    assemble ["NEW".toList, "FIN512".toList] = some [.new, .fin512] := by decide +kernel

/-! ### Witnesses: the hypotheses of the statements can be met -/

theorem test_witness_CommandWordsRoundTrip : decode 0x01FF#16 = .command (.upd 0xFF#8) := by decide

theorem test_witness_OpcodeTableSelectsTheCommand :
    (∃ r ∈ opcodeTable, r.selects 0x01FF#16 = true ∧ r.mnemonic = "UPD") ∧
    (∀ r ∈ opcodeTable, r.selects 0x0400#16 = false) ∧ decode 0x0400#16 = .reserved .opcode := by decide

theorem test_witness_ReservedWordsRaiseIllegal :
    State.reset.err = false ∧ (∃ why, decode 0x0001#16 = .reserved why) ∧ ∃ why, decode 0x0400#16 = .reserved why :=
  ⟨rfl, ⟨.operand, rfl⟩, ⟨.opcode, rfl⟩⟩

/-- A reserved and a legal word presented to an unfaulted instance. -/
theorem test_witness_ReservedWordsRaiseIllegal_presented :
    (∃ t, present 0xFF00#16 State.reset = .next t) ∧ ∃ t, present 0x0000#16 consumed = .next t :=
  ⟨⟨_, rfl⟩, ⟨_, rfl⟩⟩

theorem test_witness_StepRunsDecodedCommand :
    (State.reset.withFetchWord 16 0x0300).input = .command 0x0300#16 :: [] ∧ decode 0x0300#16 = .command .fin512 := by
  decide

theorem test_witness_IdleStepChangesNothing : State.reset.input = [] := rfl

theorem test_witness_ChecksInOrder :
    ((at_ 15#5 .absorbing).n.toNat < 16 ∧ (at_ 15#5 .absorbing).err = false ∧ (at_ 15#5 .absorbing).phase = .absorbing) ∧
    (consumed.n.toNat < 16 ∧ consumed.err = false ∧ consumed.phase = .consumed ∧ Instr.fin256 ≠ .new) ∧
    (faulted.n.toNat < 16 ∧ faulted.err = true) ∧ (∃ why, decode 0x0400#16 = .reserved why) ∧
    decode 0x0200#16 = .command .fin256 := by
  refine ⟨by decide, by decide, by decide, ⟨.opcode, rfl⟩, by decide⟩

theorem test_witness_ExactlyTwoFaults :
    (at_ 0#5 .absorbing).n.toNat < 16 ∧ (at_ 0#5 .absorbing).err = false ∧ consumed.n.toNat < 16 ∧ consumed.err = false := by
  decide

theorem test_witness_FaultWritesOnlyItsCode :
    (∃ t, present 0x0200#16 consumed = .next t ∧ consumed.err = false ∧ t.err = true) ∧ faulted.err = true :=
  ⟨⟨faulted, rfl, rfl, rfl⟩, rfl⟩

theorem test_witness_FaultIsStickyUntilReset :
    (∃ t, faulted.err = true ∧ step (faulted.withFetchWord 16 0x0000) = .next t) ∧
    ∃ s : State, s.err = true ∧ s.input = .reset :: [] :=
  ⟨⟨faulted, rfl, rfl⟩, ⟨faulted.setInput [.reset], rfl, rfl⟩⟩

theorem test_witness_UseAfterFinalizeIsMisuse :
    (∃ t, exec .fin512 State.reset = .next t ∧ t.resp = some .ok) ∧ consumed.err = false ∧
      consumed.phase = .consumed ∧ Instr.upd 0x00#8 ≠ .new :=
  ⟨⟨_, rfl, rfl⟩, rfl, rfl, by decide⟩

theorem test_witness_NoRefusalAndOneStop :
    step ((at_ 16#5 .absorbing).withFetchWord 16 0x0200) = .fault .bufferIndex := rfl

theorem test_witness_CountOutOfRangeStops :
    (at_ 16#5 .absorbing).err = false ∧ (at_ 16#5 .absorbing).phase = .absorbing ∧ 16 ≤ (at_ 16#5 .absorbing).n.toNat ∧
      16 ≤ (at_ 31#5 .absorbing).n.toNat ∧ Instr.fin256 ≠ .new := by decide

theorem test_witness_ResetLeavesWhatNewLeaves : consumed.err = false := rfl

theorem test_witness_ResetFromAnyState :
    ∃ s t : State, s.input = .reset :: [] ∧ step s = .next t ∧ s.err = true ∧ t.err = false :=
  ⟨faulted.setInput [.reset], State.reset, rfl, rfl, rfl, rfl⟩

theorem test_witness_NewStartsFreshHasher : consumed.err = false ∧ faulted.err = true ∧ (0x01#8 : Byte) ≠ 0x00#8 := by
  decide

theorem test_witness_NewFrame :
    (∃ t, exec .new consumed = .next t) ∧ (∃ t, exec .new faulted = .next t ∧ faulted.err = true) ∧
      MemoryInv consumed :=
  ⟨⟨_, rfl⟩, ⟨_, rfl, rfl⟩, ⟨by decide, by decide, by decide, by decide⟩⟩

theorem test_witness_UpdAppendsOneByte :
    faulted.err = true ∧ (consumed.err = false ∧ consumed.phase = .consumed) ∧
    ((at_ 0#5 .absorbing).err = false ∧ (at_ 0#5 .absorbing).phase = .absorbing ∧ (at_ 0#5 .absorbing).n.toNat < 15) ∧
    (at_ 14#5 .absorbing).n.toNat < 15 ∧ (at_ 15#5 .absorbing).n.toNat = 15 := by decide

theorem test_witness_UpdFrame :
    (∃ t, exec (.upd 0x80#8) (at_ 14#5 .absorbing) = .next t ∧ (at_ 14#5 .absorbing).n.toNat ≠ 15) ∧
    (∃ t, exec (.upd 0x80#8) (at_ 15#5 .absorbing) = .next t) ∧
    (∃ t, exec (.upd 0x80#8) consumed = .next t ∧ consumed.phase = .consumed) ∧
    (∃ t, exec (.upd 0x80#8) faulted = .next t ∧ faulted.err = true) :=
  ⟨⟨_, rfl, by decide⟩, ⟨_, rfl⟩, ⟨_, rfl, rfl⟩, ⟨_, rfl, rfl⟩⟩

theorem test_witness_ByteValueNeverSteersControl :
    (∃ t, exec (.upd 0x00#8) (at_ 15#5 .absorbing) = .next t) ∧
      exec (.upd 0x00#8) (at_ 16#5 .absorbing) = .fault .bufferIndex :=
  ⟨⟨_, rfl⟩, rfl⟩

/-- For Fin256WritesTheDigest and Fin512WritesTheDigest. -/
theorem test_witness_FinWritesTheDigest :
    faulted.err = true ∧ (consumed.err = false ∧ consumed.phase = .consumed) ∧
    (State.reset.err = false ∧ State.reset.phase = .absorbing ∧ State.reset.n.toNat < 16) ∧
    ((at_ 15#5 .absorbing).err = false ∧ (at_ 15#5 .absorbing).n.toNat < 16) ∧ (0x80#8 : Byte) ≠ 0x00#8 := by decide

theorem test_witness_FinFrame :
    (∃ t, exec .fin256 (at_ 15#5 .absorbing) = .next t) ∧ (∃ t, exec .fin512 (at_ 0#5 .absorbing) = .next t) ∧
    (∃ t, exec .fin512 consumed = .next t ∧ consumed.phase = .consumed) ∧
    (∃ t, exec .fin256 faulted = .next t ∧ faulted.err = true) :=
  ⟨⟨_, rfl⟩, ⟨_, rfl⟩, ⟨_, rfl, rfl⟩, ⟨_, rfl, rfl⟩⟩

theorem test_witness_PhaseMachineTable :
    ((at_ 0#5 .absorbing).n.toNat < 16 ∧ (at_ 0#5 .absorbing).err = false ∧ (at_ 0#5 .absorbing).phase = .absorbing) ∧
    (at_ 15#5 .absorbing).n.toNat < 16 ∧ (consumed.n.toNat < 16 ∧ consumed.err = false ∧ consumed.phase = .consumed) ∧
    (faulted.n.toNat < 16 ∧ faulted.err = true) ∧ decode 0x0380#16 = .reserved .operand ∧
    (State.reset.setInput [.reset]).input = .reset :: [] := by decide

/-- The invariant holds in the consumed state, and there is a step from it. -/
theorem test_witness_StepKeepsTheInvariant : Inv consumed ∧ ∃ t, step consumed = .next t := by
  refine ⟨⟨⟨by decide, by decide, by decide, by decide, fun a ha => ?_, by decide, by decide⟩,
    ⟨by decide, by decide, by decide, by decide⟩, ⟨by decide, by decide⟩, by decide⟩, ⟨consumed, rfl⟩⟩
  have h : 32 ≤ a := ha
  exact if_neg (by omega)

/-- For ResetMeetsTheInvariant: the default tags, and another choice, are distinct (R7). -/
theorem test_witness_ResetMeetsTheInvariant :
    config.TagsDistinct ∧ Config.TagsDistinct ⟨⟨1, 2, 3, 4⟩, 5#64, 6#64⟩ := by decide

/-- For ParametersNeverChange: a NEW on an instance built with another IV loads that IV (R131, R6). -/
theorem test_witness_ParametersNeverChange :
    ∃ t, step ((State.resetWith ⟨⟨1, 2, 3, 4⟩, 5#64, 6#64⟩).withFetchWord 16 0x0000) = .next t ∧
      t.lanes = ⟨1, 2, 3, 4⟩ ∧ t.params = ⟨⟨1, 2, 3, 4⟩, 5#64, 6#64⟩ := ⟨_, rfl, rfl, rfl⟩

theorem test_witness_LegalSequencesComplete :
    State.reset.n.toNat < 16 ∧ State.reset.err = false ∧
      legalSequence State.reset.phase [.upd 0x61#8, .fin512, .new, .fin256, .new] = true ∧
      legalSequence .consumed [.new, .upd 0x00#8] = true := by decide

theorem test_witness_LanesChangeOnlyByMicroOperations :
    ∃ s t : State, step s = .next t ∧ t.lanes ≠ s.lanes :=
  ⟨{ State.reset with lanes := ⟨0, 0, 0, 0⟩, input := [.command 0x0000#16] }, State.reset.setResp (some .ok), rfl,
    by decide⟩

theorem test_witness_DigestChangesOnlyByItsWriters : ∃ s t : State, step s = .next t ∧ t.dig ≠ s.dig ∧ t.dlc ≠ s.dlc :=
  ⟨consumed.setInput [.command 0x0000#16], State.reset.setResp (some .ok), rfl, by decide, by decide⟩

/-- Two states that differ in the stale byte `B[3]`, both before a FIN256. -/
theorem test_witness_StaleBytesNeverReachAnything :
    ∃ s t s' : State, s ≠ t ∧ SameButStale s t ∧ step s = .next s' :=
  ⟨{ State.reset with buf := [(3, 0x5A#8)], input := [.command 0x0200#16] },
    { State.reset with input := [.command 0x0200#16] }, _, by decide,
    ⟨rfl, fun i hi => absurd hi (Nat.not_lt_zero i)⟩, rfl⟩

theorem test_witness_InstancesAreIndependent :
    (∃ sys', deliver (0 : Fin 2) (.command 0x0163#16) (Vector.replicate 2 State.reset) = .next sys') ∧
    ((1 : Fin 2) ≠ 0) ∧
    ∃ sys', deliverAll [((0 : Fin 2), .command 0x0163#16), (1, .reset), (0, .command 0x0161#16)]
      (Vector.replicate 2 State.reset) = .next sys' :=
  ⟨⟨_, rfl⟩, by decide, ⟨_, rfl⟩⟩

theorem test_witness_ReceivedMessageInvariant :
    State.reset.err = false ∧ Received [] State.reset ∧
      ∃ s : State, s.err = false ∧ Received ((List.range 15).map (BitVec.ofNat 8)) s :=
  ⟨rfl, ⟨rfl, rfl, rfl, rfl⟩, { State.reset with n := 15#5, buf := fifteen }, rfl, ⟨rfl, rfl, rfl, rfl⟩⟩

/-- A command answered OK: a UPD that does not fill the buffer, one that does, and FIN512. -/
theorem test_witness_PhiInvocationCounts :
    (∃ t, exec (.upd 0x00#8) (at_ 14#5 .absorbing) = .next t ∧ t.resp = some .ok) ∧
    (∃ t, exec (.upd 0x00#8) (at_ 15#5 .absorbing) = .next t ∧ t.resp = some .ok) ∧
    (∃ t, exec .fin512 State.reset = .next t ∧ t.resp = some .ok) :=
  ⟨⟨_, rfl, rfl⟩, ⟨_, rfl, rfl⟩, ⟨_, rfl, rfl⟩⟩

/-- The hypothesis of HashComputesHash256, Hash512ComputesHash512 and PhiInvocationCounts, in both phases. -/
theorem test_witness_Hash : State.reset.err = false ∧ (at_ 15#5 .absorbing).err = false ∧ consumed.err = false := by
  decide

theorem test_witness_StreamingEquivalence :
    ∃ t, execAll (Pseudo.expand (.update [0x63#8, 0x61#8])) State.reset = .next t := ⟨_, rfl⟩

theorem test_witness_PaddingIsInjective : pad [0x63#8] = pad [0x63#8] ∧ (fullBlocks (pad [])).length = 1 := by decide

/-- Indices of WordLoadIsLittleEndian, SqueezeIsLittleEndian and DigestPortShowsTheDigest at their bounds. -/
theorem test_witness_byte_indices :
    (0 < 8 ∧ 7 < 8) ∧ ((31 < 32 ∨ 32 + 32 ≤ 31) ∧ (64 < 32 ∨ 32 + 32 ≤ 64)) ∧ (0 < 64 ∧ 63 < 64) ∧ 64 ≤ 64 := by decide

/-- `v = 0`, `v = 30` (the last with a nonzero image) and `v = 31` (the first with image 0), `v = 63`. -/
theorem test_witness_MapTrailingZeros :
    ((0x1#64 : Word).toNat % 2 ^ 0 = 0 ∧ (0x1#64 : Word).toNat % 2 ^ 1 ≠ 0 ∧ 2 * 0 + 2 < 64) ∧
    ((0x40000000#64 : Word).toNat % 2 ^ 30 = 0 ∧ (0x40000000#64 : Word).toNat % 2 ^ 31 ≠ 0 ∧ 2 * 30 + 2 < 64) ∧
    ((0x80000000#64 : Word).toNat % 2 ^ 31 = 0 ∧ (0x80000000#64 : Word).toNat % 2 ^ 32 ≠ 0 ∧ 64 ≤ 2 * 31 + 2) ∧
    ((0x8000000000000000#64 : Word).toNat % 2 ^ 63 = 0 ∧ (0x8000000000000000#64 : Word).toNat % 2 ^ 64 ≠ 0) := by
  decide +kernel

end Sys2Proof.Tests
end

section
/-! PROOFS. The family of 10_state.md: the state after reset, field by field, and what NEW leaves. -/

namespace Sys2Proof.Machine

/-! ### The state after reset -/

@[simp] theorem resetWith_lanes (c : Config) : (State.resetWith c).lanes = c.iv := rfl
@[simp] theorem resetWith_n (c : Config) : (State.resetWith c).n = 0#5 := rfl
@[simp] theorem resetWith_phase (c : Config) : (State.resetWith c).phase = .absorbing := rfl
@[simp] theorem resetWith_err (c : Config) : (State.resetWith c).err = false := rfl
@[simp] theorem resetWith_errc (c : Config) : (State.resetWith c).errc = 0#2 := rfl
@[simp] theorem resetWith_dig (c : Config) : (State.resetWith c).dig = [] := rfl
@[simp] theorem resetWith_dlc (c : Config) : (State.resetWith c).dlc = 0#2 := rfl

/-! ### NEW -/

/-- NEW is legal in both phases: on an unfaulted instance it runs its body and answers OK
(42_sponge_commands.md R131). -/
theorem exec_new_runs {s : State} (he : s.err = false) : exec .new s = .next (respondOk (freshHasher s)) :=
  anyPhaseCommand_runs he

end Sys2Proof.Machine

section
open Sys2Proof.Machine

/-- Settles O15: the state NEW leaves is `respondOk (freshHasher s)`, whose fields are compared with those of
the reset state one by one; `ERR` is clear in both because the instance was unfaulted. -/
theorem resetLeavesWhatNewLeaves : Obligations.ResetLeavesWhatNewLeaves := by
  unfold Obligations.ResetLeavesWhatNewLeaves
  constructor
  · intro c
    simp
  · intro s he
    exact ⟨respondOk (freshHasher s), exec_new_runs he, by simp [he]⟩

end
end

section
/-! PROOFS. The family of 20_memory.md: the byte order of the word load and of the squeeze, and the independence
of instances. -/

namespace Sys2Proof.Machine

/-! ### One event, one instance -/

/-- A stream for one instance goes on from the state its first event leaves. -/
theorem receiveAll_cons_of_next {e : HostEvent} {s t : State} (rest : List HostEvent)
    (h : receive e s = .next t) : receiveAll (e :: rest) s = receiveAll rest t := by
  simp only [receiveAll, h]

/-- A stream that completes begins with an event that completes. -/
theorem receive_next_of_receiveAll_cons {e : HostEvent} {rest : List HostEvent} {s s' : State}
    (h : receiveAll (e :: rest) s = .next s') : ∃ t, receive e s = .next t := by
  cases hr : receive e s <;> simp [receiveAll, hr] at h ⊢

variable {k : Nat} {i j : Fin k} {e : HostEvent} {sys sys' : Vector State k} {t : State}

/-- A delivered event completes exactly when its instance takes it, and writes that component alone
(20_memory.md R57). -/
theorem deliver_eq_next_iff :
    deliver i e sys = .next sys' ↔ ∃ t, receive e sys[i] = .next t ∧ sys' = sys.set i t := by
  cases hr : receive e sys[i] <;> simp [deliver, hr, eq_comm, -Fin.getElem_fin]

theorem getElem_set_same (sys : Vector State k) (i : Fin k) (t : State) : (sys.set i t)[i] = t :=
  Vector.getElem_set_self i.isLt

theorem getElem_set_other (sys : Vector State k) (t : State) (h : j ≠ i) : (sys.set i t)[j] = sys[j] :=
  Vector.getElem_set_ne i.isLt j.isLt fun hij => h (Fin.ext hij.symm)

/-! ### A merged stream -/

theorem streamOf_cons_same (i : Fin k) (e : HostEvent) (rest : List (Fin k × HostEvent)) :
    streamOf i ((i, e) :: rest) = e :: streamOf i rest := if_pos rfl

theorem streamOf_cons_other (e : HostEvent) (rest : List (Fin k × HostEvent)) (h : j ≠ i) :
    streamOf j ((i, e) :: rest) = streamOf j rest := if_neg h.symm

/-- A merged stream completes exactly when its first event does and the rest does from what that leaves. -/
theorem deliverAll_cons_eq_next_iff {rest : List (Fin k × HostEvent)} :
    deliverAll ((i, e) :: rest) sys = .next sys' ↔
      ∃ t, receive e sys[i] = .next t ∧ deliverAll rest (sys.set i t) = .next sys' := by
  cases hr : receive e sys[i] <;> simp [deliverAll, deliver, hr, -Fin.getElem_fin]

/-- The commuting step: once instance `i` has taken the first event, what each instance's own stream has yet to
do, it does from that instance's component of the new system. -/
theorem receiveAll_streamOf_cons (rest : List (Fin k × HostEvent)) (h : receive e sys[i] = .next t)
    (j : Fin k) :
    receiveAll (streamOf j ((i, e) :: rest)) sys[j] = receiveAll (streamOf j rest) (sys.set i t)[j] := by
  by_cases hj : j = i
  · subst hj
    rw [streamOf_cons_same, getElem_set_same, receiveAll_cons_of_next _ h]
  · rw [streamOf_cons_other _ _ hj, getElem_set_other _ _ hj]

theorem deliverAll_nil_eq_next_iff : deliverAll [] sys = .next sys' ↔ ∀ i : Fin k, sys[i] = sys'[i] := by
  simp only [deliverAll, Host.Outcome.next.injEq]
  constructor
  · rintro rfl i
    rfl
  · exact fun h => Vector.ext fun n hn => h ⟨n, hn⟩

theorem deliverAll_eq_next_iff (stream : List (Fin k × HostEvent)) (sys sys' : Vector State k) :
    deliverAll stream sys = .next sys' ↔ ∀ i : Fin k, receiveAll (streamOf i stream) sys[i] = .next sys'[i] := by
  induction stream generalizing sys with
  | nil => simp only [deliverAll_nil_eq_next_iff, streamOf, receiveAll, Host.Outcome.next.injEq]
  | cons event rest ih =>
    obtain ⟨i, e⟩ := event
    rw [deliverAll_cons_eq_next_iff]
    constructor
    · rintro ⟨t, ht, hrest⟩ j
      rw [receiveAll_streamOf_cons rest ht]
      exact (ih _).mp hrest j
    · intro h
      have hi := h i
      rw [streamOf_cons_same] at hi
      obtain ⟨t, ht⟩ := receive_next_of_receiveAll_cons hi
      refine ⟨t, ht, (ih _).mpr fun j => ?_⟩
      rw [← receiveAll_streamOf_cons rest ht]
      exact h j

/-! ### Byte order -/

/-- Byte `j` of a loaded Word is the byte at `a + j` (20_memory.md R51). -/
theorem loadWord_byte (m : Memory) (a : Nat) {j : Nat} (hj : j < 8) :
    (loadWord m a).extractLsb' (8 * j) 8 = Memory.read m (a + j) := by
  apply BitVec.eq_of_toNat_eq
  have hfits : memReadNat m a 8 < 2 ^ 64 := memReadNat_lt m a 8
  have hpow : 2 ^ (8 * j) = 256 ^ j := pow_mul 2 8 j
  rw [loadWord, BitVec.extractLsb'_toNat, BitVec.toNat_ofNat, Nat.mod_eq_of_lt hfits, Nat.shiftRight_eq_div_pow,
    hpow]
  exact memReadNat_byte m a 8 j hj

theorem xorRate_eq (w0 w1 : Word) (v : Lanes) : xorRate w0 w1 v = ⟨v.s0 ^^^ w0, v.s1 ^^^ w1, v.s2, v.s3⟩ := rfl

/-- Byte `8i + j` of a squeeze is byte `j` of lane `i` (20_memory.md R52). -/
theorem squeezedByte_lane (v : Lanes) (i : Fin 4) {j : Nat} (hj : j < 8) :
    squeezedByte v (8 * i.val + j) = (lane v i).extractLsb' (8 * j) 8 := by
  match i with
  | 0 => simp [squeezedByte, lane, hj]
  | 1 => simp (disch := omega) [squeezedByte, lane, if_pos]
  | 2 => simp (disch := omega) [squeezedByte, lane, if_pos, if_neg]
  | 3 => simp (disch := omega) [squeezedByte, lane, if_neg]

end Sys2Proof.Machine

section
open Sys2Proof.Machine

/-- Settles O34, by induction on the merged stream: after its first event the rest runs from the new system, and
each own stream goes on from its component of that system (`deliverAll_eq_next_iff`). -/
theorem instancesAreIndependent : Obligations.InstancesAreIndependent := by
  unfold Obligations.InstancesAreIndependent
  constructor
  · intro k stream sys sys'
    exact deliverAll_eq_next_iff stream sys sys'
  · intro k i j e sys sys' h hj
    obtain ⟨t, -, rfl⟩ := deliver_eq_next_iff.mp h
    exact getElem_set_other sys t hj

/-- Settles O41: the loaded integer fits in a Word, so a slice of 8 bits is its digit in base 256, the byte at
that address; the lanes of an absorb are PHI of the XORed rate. -/
theorem wordLoadIsLittleEndian : Obligations.WordLoadIsLittleEndian := by
  unfold Obligations.WordLoadIsLittleEndian
  constructor
  · intro m a j hj
    exact loadWord_byte m a hj
  · intro s
    rw [absorbBlock_lanes, xorRate_eq]

/-- Settles O42: `read_squeezeTo` gives every byte after a squeeze, inside its 32 bytes the lanes' and outside
the old one. -/
theorem squeezeIsLittleEndian : Obligations.SqueezeIsLittleEndian := by
  unfold Obligations.SqueezeIsLittleEndian
  intro m base v
  constructor
  · intro i j hj
    have hi := i.isLt
    have hoff : base + 8 * i.val + j - base = 8 * i.val + j := by omega
    rw [read_squeezeTo, if_pos (by omega), hoff, squeezedByte_lane v i hj]
  · intro a ha
    rw [read_squeezeTo, if_neg (by omega)]

end
end

section
/-! PROOFS. The family of 30_encoding.md: the command word and its fields, the opcode table, the reserved words. -/

namespace Sys2Proof

/-! ### The fields of a word (30_encoding.md R70) -/

theorem append_splitCommand (w : CommandWord) : (splitCommand w).op ++ (splitCommand w).imm8 = w :=
  BitVec.extractLsb'_append_extractLsb'

theorem encode_eq_append_fields (i : Instr) : encode i = i.fields.op ++ i.fields.imm8 := by
  cases i <;> rfl

theorem encodesAsFields (i : Instr) : Laws.EncodesAsFields.Statement i := by
  cases i with
  | new => exact Laws.EncodesAsFields.new
  | upd b => exact Laws.EncodesAsFields.upd b
  | fin256 => exact Laws.EncodesAsFields.fin256
  | fin512 => exact Laws.EncodesAsFields.fin512

@[simp] theorem splitCommand_encode (i : Instr) : splitCommand (encode i) = i.fields := by
  obtain ⟨-, hsplit, -⟩ := encodesAsFields i
  exact hsplit

/-! ### Decoding (R71 to R73) -/

theorem withoutOperand_eq_command_iff {imm8 : Byte} {i j : Instr} :
    withoutOperand imm8 i = .command j ↔ imm8 = 0x00#8 ∧ i = j := by
  by_cases h : imm8 = 0x00#8 <;> simp [withoutOperand, h]

theorem withoutOperand_reserved_iff {imm8 : Byte} {i : Instr} :
    (∃ why, withoutOperand imm8 i = .reserved why) ↔ imm8 ≠ 0x00#8 := by
  by_cases h : imm8 = 0x00#8 <;> simp [withoutOperand, h]

@[simp] theorem decodeFields_fields (i : Instr) : decodeFields i.fields = .command i := by
  cases i <;> rfl

theorem fields_eq_of_decodeFields {f : CommandFields} {i : Instr} (h : decodeFields f = .command i) :
    i.fields = f := by
  obtain ⟨op, imm8⟩ := f
  unfold decodeFields at h
  split at h
  case h_1 hop =>
    obtain ⟨rfl, rfl⟩ := withoutOperand_eq_command_iff.mp h
    obtain rfl : op = 0x00#8 := BitVec.eq_of_toNat_eq hop
    rfl
  case h_2 hop =>
    cases h
    obtain rfl : op = 0x01#8 := BitVec.eq_of_toNat_eq hop
    rfl
  case h_3 hop =>
    obtain ⟨rfl, rfl⟩ := withoutOperand_eq_command_iff.mp h
    obtain rfl : op = 0x02#8 := BitVec.eq_of_toNat_eq hop
    rfl
  case h_4 hop =>
    obtain ⟨rfl, rfl⟩ := withoutOperand_eq_command_iff.mp h
    obtain rfl : op = 0x03#8 := BitVec.eq_of_toNat_eq hop
    rfl
  case h_5 => cases h

theorem decodeFields_reserved_iff (f : CommandFields) :
    (∃ why, decodeFields f = .reserved why) ↔
      4 ≤ f.op.toNat ∨ ((f.op.toNat = 0 ∨ f.op.toNat = 2 ∨ f.op.toNat = 3) ∧ f.imm8 ≠ 0x00#8) := by
  unfold decodeFields
  split
  case h_1 hop => simp [withoutOperand_reserved_iff, hop]
  case h_2 hop => simp [hop]
  case h_3 hop => simp [withoutOperand_reserved_iff, hop]
  case h_4 hop => simp [withoutOperand_reserved_iff, hop]
  case h_5 h0 h1 h2 h3 =>
    simp only [imp_false] at h0 h1 h2 h3
    have hop : 4 ≤ f.op.toNat := by omega
    simp [hop]

@[simp] theorem decode_encode (i : Instr) : decode (encode i) = .command i := by
  rw [decode, splitCommand_encode, decodeFields_fields]

theorem encode_of_decode {w : CommandWord} {i : Instr} (h : decode w = .command i) : encode i = w := by
  rw [encode_eq_append_fields, fields_eq_of_decodeFields h, append_splitCommand]

theorem encode_injective : Function.Injective encode := by
  intro i j h
  have hd := congrArg decode h
  simpa using hd

theorem decode_cases (w : CommandWord) : (∃ why, decode w = .reserved why) ∨ ∃ i, decode w = .command i := by
  cases decode w with
  | command i => exact .inr ⟨i, rfl⟩
  | reserved why => exact .inl ⟨why, rfl⟩

theorem not_reserved_iff_command (w : CommandWord) :
    (¬ ∃ why, decode w = .reserved why) ↔ ∃ i, decode w = .command i := by
  cases decode w <;> simp

/-! ### The opcode table as mask and match (R71) -/

/-- The one row whose mask leaves bits open is UPD's: what it selects is UPD's opcode byte before any byte. -/
theorem eq_encode_upd_of_and_mask {w : CommandWord} (h : w &&& 0xFF00#16 = 0x0100#16) :
    w = encode (.upd (w.extractLsb' 0 8)) := by
  have hop : w.extractLsb' 8 8 &&& BitVec.allOnes 8 = 0x01#8 := by
    have hx := congrArg (BitVec.extractLsb' 8 8) h
    rwa [BitVec.extractLsb'_and] at hx
  rw [BitVec.and_allOnes] at hop
  calc w = w.extractLsb' 8 8 ++ w.extractLsb' 0 8 := (append_splitCommand w).symm
    _ = 0x01#8 ++ w.extractLsb' 0 8 := by rw [hop]

theorem encode_of_selects {w : CommandWord} {r : OpcodeRow} (hr : r ∈ opcodeTable) (h : r.selects w = true) :
    ∃ i, encode i = w := by
  have hm : w &&& r.mask = r.pattern := by simpa [OpcodeRow.selects] using h
  have full : w &&& 0xFFFF#16 = w := BitVec.and_allOnes
  simp only [opcodeTable, List.mem_cons, List.not_mem_nil, or_false] at hr
  rcases hr with rfl | rfl | rfl | rfl
  · exact ⟨.new, hm.symm.trans full⟩
  · exact ⟨_, (eq_encode_upd_of_and_mask hm).symm⟩
  · exact ⟨.fin256, hm.symm.trans full⟩
  · exact ⟨.fin512, hm.symm.trans full⟩

theorem selects_encode_iff {r : OpcodeRow} (hr : r ∈ opcodeTable) (i : Instr) :
    r.selects (encode i) = true ↔ r.mnemonic = i.mnemonic := by
  obtain ⟨-, -, hrow⟩ := encodesAsFields i
  rw [hrow r hr, decide_eq_true_iff]

/-- A row selects exactly the words that decode to a command of its mnemonic. -/
theorem selects_iff_decode {w : CommandWord} {r : OpcodeRow} (hr : r ∈ opcodeTable) :
    r.selects w = true ↔ ∃ i, decode w = .command i ∧ i.mnemonic = r.mnemonic := by
  constructor
  · intro h
    obtain ⟨i, rfl⟩ := encode_of_selects hr h
    exact ⟨i, decode_encode i, ((selects_encode_iff hr i).mp h).symm⟩
  · rintro ⟨i, hi, hm⟩
    rw [← encode_of_decode hi]
    exact (selects_encode_iff hr i).mpr hm.symm

theorem eq_of_mnemonic_eq : ∀ r ∈ opcodeTable, ∀ r' ∈ opcodeTable, r.mnemonic = r'.mnemonic → r = r' := by
  decide

theorem exists_row_of_instr (i : Instr) : ∃ r ∈ opcodeTable, r.mnemonic = i.mnemonic := by
  cases i <;> simp [opcodeTable, Instr.mnemonic]

theorem exists_selects_iff_command (w : CommandWord) :
    (∃ r ∈ opcodeTable, r.selects w = true) ↔ ∃ i, decode w = .command i := by
  constructor
  · rintro ⟨r, hr, h⟩
    obtain ⟨i, hi, -⟩ := (selects_iff_decode hr).mp h
    exact ⟨i, hi⟩
  · rintro ⟨i, hi⟩
    obtain ⟨r, hr, hm⟩ := exists_row_of_instr i
    exact ⟨r, hr, (selects_iff_decode hr).mpr ⟨i, hi, hm.symm⟩⟩

/-- UPD's operand is the byte `imm8` of its word (R72). -/
theorem eq_upd_imm8_of_mnemonic {w : CommandWord} {i : Instr} (h : decode w = .command i)
    (hm : i.mnemonic = "UPD") : i = .upd (w.extractLsb' 0 8) := by
  have hf : i.fields = splitCommand w := fields_eq_of_decodeFields h
  cases i with
  | upd b => exact congrArg Instr.upd (congrArg CommandFields.imm8 hf)
  | new | fin256 | fin512 => simp [Instr.mnemonic] at hm

/-! ### The 259 legal words (R73) -/

/-- Every instruction once: the three without operand, and UPD with each of the 256 bytes. -/
def allInstrs : List Instr :=
  .new :: .fin256 :: .fin512 :: (List.finRange 256).map fun b => .upd (.ofFin b)

theorem mem_allInstrs (i : Instr) : i ∈ allInstrs := by
  cases i with
  | upd b =>
    have hb : Instr.upd b ∈ (List.finRange 256).map fun b => Instr.upd (.ofFin b) :=
      List.mem_map.mpr ⟨b.toFin, List.mem_finRange _, rfl⟩
    simp only [allInstrs, List.mem_cons, hb, or_true]
  | new | fin256 | fin512 => simp [allInstrs]

theorem allInstrs_nodup : allInstrs.Nodup := by
  have hupd : ((List.finRange 256).map fun b => Instr.upd (.ofFin b)).Nodup :=
    (List.nodup_finRange 256).map fun a b h => by simpa using h
  simp [allInstrs, hupd]

/-- The words of the legal commands. -/
def legalWords : List CommandWord := allInstrs.map encode

theorem legalWords_nodup : legalWords.Nodup := allInstrs_nodup.map encode_injective

theorem legalWords_length : legalWords.length = 259 := by
  simp [legalWords, allInstrs]

theorem mem_legalWords_iff (w : CommandWord) : w ∈ legalWords ↔ ∃ i, decode w = .command i := by
  rw [legalWords, List.mem_map]
  constructor
  · rintro ⟨i, -, rfl⟩
    exact ⟨i, decode_encode i⟩
  · rintro ⟨i, hi⟩
    exact ⟨i, mem_allInstrs i, encode_of_decode hi⟩

end Sys2Proof

namespace Sys2Proof.Machine

/-! ### What a presented word does to an unfaulted state (60_exceptions.md R173) -/

variable {s t : State} {w : CommandWord} {i : Instr}

/-- A command of the hasher whose body keeps `ERR` leaves an unfaulted state unfaulted or raises MISUSE. -/
theorem hasherCommand_unfaulted {body : State → State} (he : s.err = false) (hb : (body s).err = s.err)
    (h : hasherCommand body s = .next t) : t.err = false ∨ t = raise .misuse s := by
  rcases hasherCommand_cases h with ⟨hf, -⟩ | ⟨-, -, rfl⟩ | ⟨-, -, -, rfl⟩
  · simp [he] at hf
  · exact .inr rfl
  · exact .inl (by rw [respondOk_err, hb, he])

theorem exec_unfaulted (he : s.err = false) (h : exec i s = .next t) : t.err = false ∨ t = raise .misuse s := by
  cases i with
  | new =>
    rw [exec_new_runs he] at h
    cases h
    exact .inl (by simp [he])
  | upd b => exact hasherCommand_unfaulted he (appendByte_err b s) h
  | fin256 => exact hasherCommand_unfaulted he (finish256_err s) h
  | fin512 => exact hasherCommand_unfaulted he (finish512_err s) h

theorem present_command (he : s.err = false) (hw : decode w = .command i) : present w s = exec i s := by
  rw [present_decoded he, hw, executeDecoded]

theorem present_reserved (he : s.err = false) (hw : ∃ why, decode w = .reserved why) :
    present w s = .next (raise .illegal s) := by
  obtain ⟨why, hw⟩ := hw
  rw [present_decoded he, hw, executeDecoded]

/-- Once presented, `ERR` with the code of ILLEGAL tells a reserved word from a command: a command leaves
`ERR` clear or the code of MISUSE. -/
theorem present_illegal_iff (he : s.err = false) (h : present w s = .next t) :
    (t.err = true ∧ t.errc = FaultCause.illegal.code) ↔ ∃ why, decode w = .reserved why := by
  rcases decode_cases w with hr | ⟨i, hi⟩
  · rw [present_reserved he hr] at h
    cases h
    simp [hr]
  · rw [present_command he hi] at h
    rcases exec_unfaulted he h with hok | rfl
    · simp [hok, hi]
    · simp [hi, FaultCause.code]

end Sys2Proof.Machine

section
open Sys2Proof Sys2Proof.Machine

/-- Settles O3: a row selects exactly the words that decode to a command of its mnemonic
(`selects_iff_decode`); a mnemonic has one row and every command has a row; the legal words are the encodings
of all commands. -/
theorem opcodeTableSelectsTheCommand : Obligations.OpcodeTableSelectsTheCommand := by
  unfold Obligations.OpcodeTableSelectsTheCommand
  refine ⟨?row, ?disjoint, ?reserved, legalWords, legalWords_nodup, legalWords_length, mem_legalWords_iff⟩
  case row =>
    intro w r hr hsel
    obtain ⟨i, hi, hm⟩ := (selects_iff_decode hr).mp hsel
    exact ⟨i, hi, hm, fun hupd => eq_upd_imm8_of_mnemonic hi (hm.trans hupd)⟩
  case disjoint =>
    intro w r r' hr hr' hsel hsel'
    obtain ⟨i, hi, hm⟩ := (selects_iff_decode hr).mp hsel
    obtain ⟨j, hj, hm'⟩ := (selects_iff_decode hr').mp hsel'
    obtain rfl : i = j := by simpa [hi] using hj
    exact eq_of_mnemonic_eq r hr r' hr' (hm.symm.trans hm')
  case reserved =>
    intro w
    have h := not_congr ((exists_selects_iff_command w).trans (not_reserved_iff_command w).symm)
    simpa using h

/-- Settles O4: the reserved words are read off the opcode byte's cases (`decodeFields_reserved_iff`), the
others are the legal ones, and `present_illegal_iff` says that ILLEGAL is raised on reserved words alone. -/
theorem reservedWordsRaiseIllegal : Obligations.ReservedWordsRaiseIllegal := by
  unfold Obligations.ReservedWordsRaiseIllegal
  refine ⟨⟨legalWords, legalWords_nodup, legalWords_length, fun w => ?_⟩, fun w => ⟨?_, decode_cases w, ?_, ?_⟩⟩
  · rw [mem_legalWords_iff, not_reserved_iff_command]
  · exact decodeFields_reserved_iff (splitCommand w)
  · intro s he hw
    exact present_reserved he hw
  · intro s t he h
    exact present_illegal_iff he h

end
end

section
/-! PROOFS. The family of 41_permutation_phi.md: the lattice step by its lanes, the packed form, the eight
steps of PHI. -/

namespace Sys2Proof.Machine

/-! ### STEP (R110, R112) -/

/-- Four registers are determined by their lanes. -/
theorem eq_of_lane_eq {v w : Lanes} (h : ∀ i : Fin 4, lane v i = lane w i) : v = w := by
  cases v
  cases w
  exact (Lanes.mk.injEq ..).mpr ⟨h 0, h 1, h 2, h 3⟩

/-- Row `i` of R110's table: the equation of STEP for lane `i`, with the lane index taken modulo 4. -/
theorem lane_latticeStep (s : Lanes) (i : Fin 4) : lane (latticeStep s) i =
    chaoticMap (lane s i) ^^^ (lane s (i + 1) >>> rightShift i) ^^^ (lane s (i - 1) <<< leftShift i) := by
  match i with
  | 0 | 1 | 2 | 3 => rfl

theorem lane_latticeStepPacked (s : Lanes) (i : Fin 4) : lane (latticeStepPacked s) i =
    chaoticMap (lane s i) ^^^ (lane s (i + 1) >>> rightShift i) ^^^ (lane s (i - 1) <<< leftShift i) := by
  match i with
  | 0 | 1 | 2 | 3 => rfl

theorem latticeStepPacked_eq (s : Lanes) : latticeStepPacked s = latticeStep s :=
  eq_of_lane_eq fun i => (lane_latticeStepPacked s i).trans (lane_latticeStep s i).symm

/-! ### PHI (R113) -/

theorem latticeSteps_eq_iterate (k : Nat) (s : Lanes) : latticeSteps k s = latticeStep^[k] s := by
  induction k generalizing s with
  | zero => rfl
  | succ k ih => rw [latticeSteps, ih, Function.iterate_succ_apply]

theorem phi_eq_iterate (s : Lanes) : phi s = latticeStep^[8] s :=
  latticeSteps_eq_iterate rounds s

end Sys2Proof.Machine

section
open Sys2Proof.Machine

/-- Settles O51: `lane_latticeStep` is the table's row for each lane; the packed operation has the same rows,
and lanes determine the state (`eq_of_lane_eq`). -/
theorem latticeStepByLane : Obligations.LatticeStepByLane := by
  unfold Obligations.LatticeStepByLane
  intro s
  exact ⟨lane_latticeStep s, latticeStepPacked_eq s⟩

/-- Settles O52: PHI is the eighth iterate of STEP (`phi_eq_iterate`), which unrolls to eight applications. -/
theorem phiIsEightSteps : Obligations.PhiIsEightSteps := by
  unfold Obligations.PhiIsEightSteps
  intro s
  rw [phi_eq_iterate]
  rfl

end
end

section
/-! PROOFS. The family of 42_sponge_commands.md: NEW, UPD, the two finalizations, and UPDATE in parts. -/

namespace Sys2Proof

/-! ### Words written as opcode byte and operand byte (30_encoding.md R70 to R73) -/

theorem splitCommand_append (op imm8 : Byte) : splitCommand (op ++ imm8) = ⟨op, imm8⟩ := by
  rw [splitCommand, BitVec.extractLsb'_append_eq_left, BitVec.extractLsb'_append_eq_right]

theorem decode_append (op imm8 : Byte) : decode (op ++ imm8) = decodeFields ⟨op, imm8⟩ := by
  rw [decode, splitCommand_append]

theorem withoutOperand_reserved {imm8 : Byte} (h : imm8 ≠ 0x00#8) (i : Instr) :
    withoutOperand imm8 i = .reserved .operand := if_neg h

theorem encode_upd_eq_add (b : Byte) : encode (.upd b) = 0x0100#16 + b.setWidth 16 := by
  apply BitVec.eq_of_toNat_eq
  have hb := b.isLt
  have happend : (encode (.upd b)).toNat = 1 <<< 8 + b.toNat :=
    (BitVec.toNat_append ..).trans (Nat.shiftLeft_add_eq_or_of_lt hb 1).symm
  rw [happend, BitVec.toNat_add, BitVec.toNat_setWidth, BitVec.toNat_ofNat]
  omega

end Sys2Proof

namespace Sys2Proof.Machine

variable {s : State}

/-! ### The answers of a command that does not run (60_exceptions.md R172, R173) -/

theorem exec_refused (i : Instr) (he : s.err = true) :
    exec i s = .next { s with resp := some (.fault s.errc) } := by
  cases i with
  | new => exact anyPhaseCommand_refused he
  | upd b => exact hasherCommand_refused he
  | fin256 => exact hasherCommand_refused he
  | fin512 => exact hasherCommand_refused he

theorem exec_misuse {i : Instr} (hi : i ≠ .new) (he : s.err = false) (hp : s.phase = .consumed) :
    exec i s = .next { s with err := true, errc := 1#2, resp := some (.fault 1#2) } := by
  cases i with
  | new => exact absurd rfl hi
  | upd b => exact hasherCommand_misuse he hp
  | fin256 => exact hasherCommand_misuse he hp
  | fin512 => exact hasherCommand_misuse he hp

/-! ### The commands that run: UPD (R132), FIN256 (R140), FIN512 (R145) -/

theorem exec_upd_runs (b : Byte) (he : s.err = false) (hp : s.phase = .absorbing) (hn : s.n.toNat < rateBytes) :
    exec (.upd b) s = .next (respondOk (appendByte b s)) := hasherCommand_runs he hp hn

theorem exec_fin256_runs (he : s.err = false) (hp : s.phase = .absorbing) (hn : s.n.toNat < rateBytes) :
    exec .fin256 s = .next (respondOk (finish256 s)) := hasherCommand_runs he hp hn

theorem exec_fin512_runs (he : s.err = false) (hp : s.phase = .absorbing) (hn : s.n.toNat < rateBytes) :
    exec .fin512 s = .next (respondOk (finish512 s)) := hasherCommand_runs he hp hn

/-! ### NEW twice (R131) -/

theorem freshHasher_respondOk_freshHasher (s : State) :
    respondOk (freshHasher (respondOk (freshHasher s))) = respondOk (freshHasher s) := rfl

theorem respondOk_freshHasher_resetWith (c : Config) :
    respondOk (freshHasher (State.resetWith c)) = { State.resetWith c with resp := some .ok } := rfl

/-! ### The padded block (R140 step 1) -/

theorem read_padBuffer_below {i : Nat} (hn : s.n.toNat < rateBytes) (hi : i < s.n.toNat) :
    Memory.read (padBuffer s).buf i = Memory.read s.buf i := by
  rw [read_padBuffer hn, if_pos hi]

theorem read_padBuffer_at (hn : s.n.toNat < rateBytes) : Memory.read (padBuffer s).buf s.n.toNat = padByte := by
  rw [read_padBuffer hn, if_neg (Nat.lt_irrefl _), if_pos rfl]

theorem read_padBuffer_above {i : Nat} (hn : s.n.toNat < rateBytes) (hi : s.n.toNat < i) (h16 : i < rateBytes) :
    Memory.read (padBuffer s).buf i = 0x00#8 := by
  rw [read_padBuffer hn, if_neg (by omega), if_neg (by omega), if_pos h16]

theorem xorTag_eq (t : Word) (v : Lanes) : xorTag t v = ⟨v.s0, v.s1, v.s2, v.s3 ^^^ t⟩ := rfl

/-! ### The digest, byte by byte (R140 step 5, 20_memory.md R52) -/

theorem read_squeezeTo_lane (m : Memory) (base : Nat) (v : Lanes) (i : Fin 4) {j : Nat} (hj : j < 8) :
    Memory.read (squeezeTo m base v) (base + 8 * i.val + j) = (lane v i).extractLsb' (8 * j) 8 := by
  obtain ⟨hinside, -⟩ := squeezeIsLittleEndian m base v
  exact hinside i j hj

theorem read_squeezeTo_zero_lane (m : Memory) (v : Lanes) (i : Fin 4) {j : Nat} (hj : j < 8) :
    Memory.read (squeezeTo m 0 v) (8 * i.val + j) = (lane v i).extractLsb' (8 * j) 8 := by
  simpa only [Nat.zero_add] using read_squeezeTo_lane m 0 v i hj

/-- A second squeeze to `D[32..63]` leaves the bytes of the first. -/
theorem read_squeezeTo_below {m : Memory} {base a : Nat} (v : Lanes) (ha : a < base) :
    Memory.read (squeezeTo m base v) a = Memory.read m a := by
  rw [read_squeezeTo, if_neg (by omega)]

theorem finish256_dig_lane (s : State) (i : Fin 4) {j : Nat} (hj : j < 8) :
    Memory.read (finish256 s).dig (8 * i.val + j) = (lane (finish256 s).lanes i).extractLsb' (8 * j) 8 := by
  have hbelow : ¬ (squeezeBytes ≤ 8 * i.val + j ∧ 8 * i.val + j < squeezeBytes + (digestBytes - squeezeBytes)) := by
    simp only [squeezeBytes]
    omega
  rw [finish256_dig, read_zeroFill, if_neg hbelow, read_squeezeTo_zero_lane _ _ i hj, finish256_lanes]

theorem finish256_dig_upper (s : State) {j : Nat} (h32 : 32 ≤ j) (h64 : j < 64) :
    Memory.read (finish256 s).dig j = 0x00#8 := by
  rw [finish256_dig, read_zeroFill]
  exact if_pos ⟨h32, h64⟩

/-- The first squeeze of FIN512 shows the lanes before the second PHI. -/
theorem finish512_dig_lower_lane (s : State) (i : Fin 4) {j : Nat} (hj : j < 8) :
    Memory.read (finish512 s).dig (8 * i.val + j) =
      (lane (finalState s.params.tag512 s).lanes i).extractLsb' (8 * j) 8 := by
  have hbelow : 8 * i.val + j < squeezeBytes := by
    simp only [squeezeBytes]
    omega
  rw [finish512_dig, read_squeezeTo_below _ hbelow, read_squeezeTo_zero_lane _ _ i hj]

theorem finish512_dig_upper_lane (s : State) (i : Fin 4) {j : Nat} (hj : j < 8) :
    Memory.read (finish512 s).dig (32 + 8 * i.val + j) = (lane (finish512 s).lanes i).extractLsb' (8 * j) 8 := by
  rw [finish512_dig, finish512_lanes]
  exact read_squeezeTo_lane _ squeezeBytes _ i hj

/-! ### UPDATE (R150) -/

theorem expandUpdate_eq_map : expandUpdate = List.map .upd := by
  funext m
  induction m with
  | nil => rfl
  | cons b bs ih => rw [expandUpdate, ih, List.map_cons]

theorem expandUpdate_append (a b : List Byte) : expandUpdate (a ++ b) = expandUpdate a ++ expandUpdate b := by
  rw [expandUpdate_eq_map, List.map_append]

theorem expandUpdate_flatten (parts : List (List Byte)) :
    expandUpdate parts.flatten = (parts.map expandUpdate).flatten := by
  rw [expandUpdate_eq_map, List.map_flatten]

/-- A sequence goes on from the state its completed first part leaves. -/
theorem execAll_append_of_next {is : List Instr} {t : State} (js : List Instr) (h : execAll is s = .next t) :
    execAll (is ++ js) s = execAll js t := by
  induction is generalizing s with
  | nil =>
    cases h
    rfl
  | cons i is ih =>
    cases hi : exec i s with
    | next u =>
      simp only [execAll, hi] at h
      simp only [List.cons_append, execAll, hi]
      exact ih h
    | fault r => simp [execAll, hi] at h
    | refused r => simp [execAll, hi] at h

end Sys2Proof.Machine

section
open Sys2Proof Sys2Proof.Machine

/-- Settles O20: below index 15 the command only stores and counts the byte (`appendByte_below`), at index 15
it absorbs the block the byte completes (`appendByte_full`). -/
theorem updAppendsOneByte : Obligations.UpdAppendsOneByte := by
  unfold Obligations.UpdAppendsOneByte
  refine ⟨fun b => ⟨encode_upd_eq_add b, decode_encode _⟩, fun b s he => exec_refused _ he,
    fun b s he hp => exec_misuse (by simp) he hp, fun b s he hp => ⟨fun hn => ?below, fun hn => ?full⟩⟩
  case below =>
    have hrest : s.n.toNat < rateBytes := Nat.lt_succ_of_lt hn
    refine ⟨_, exec_upd_runs b he hp hrest, ?_⟩
    rw [appendByte_below (Nat.succ_lt_succ hn)]
    simp [count_succ hrest]
  case full =>
    have hrest : s.n.toNat < rateBytes := Nat.lt_of_le_of_lt hn.le (by decide)
    refine ⟨_, exec_upd_runs b he hp hrest, ?_⟩
    rw [appendByte_full (congrArg Nat.succ hn)]
    simp [hn, xorRate_eq]

/-- Settles O23: the padded block is read off `padBuffer`, the lanes are the finalization of its absorb
(`finalState_lanes`), and `D` holds one squeeze of them below its zeroed upper half. -/
theorem fin256WritesTheDigest : Obligations.Fin256WritesTheDigest := by
  unfold Obligations.Fin256WritesTheDigest
  refine ⟨decode_encode .fin256, fun b hb => (decode_append _ b).trans (withoutOperand_reserved hb .fin256),
    fun s he => exec_refused _ he, fun s he hp => exec_misuse (by simp) he hp, rfl, fun s he hp hn => ?_⟩
  refine ⟨_, exec_fin256_runs he hp hn, ?_⟩
  simp only [respondOk_buf, respondOk_lanes, respondOk_dig, finish256_buf]
  exact ⟨fun i hi => read_padBuffer_below hn hi, read_padBuffer_at hn,
    fun i hi h16 => read_padBuffer_above hn hi h16,
    ⟨_, rfl, by rw [finish256_lanes, finalState_lanes, xorRate_eq, xorTag_eq]⟩,
    fun i j hj => finish256_dig_lane s i hj, fun j h32 h64 => finish256_dig_upper s h32 h64, by simp⟩

/-- Settles O24: as FIN256 with the other tag; the lower half of `D` shows the lanes the finalization leaves,
the upper half those after one more PHI. -/
theorem fin512WritesTheDigest : Obligations.Fin512WritesTheDigest := by
  unfold Obligations.Fin512WritesTheDigest
  refine ⟨decode_encode .fin512, fun b hb => (decode_append _ b).trans (withoutOperand_reserved hb .fin512),
    fun s he => exec_refused _ he, fun s he hp => exec_misuse (by simp) he hp, rfl, fun s he hp hn => ?_⟩
  refine ⟨_, exec_fin512_runs he hp hn, ?_⟩
  simp only [respondOk_buf, respondOk_lanes, respondOk_dig, finish512_buf]
  exact ⟨fun i hi => read_padBuffer_below hn hi, read_padBuffer_at hn,
    fun i hi h16 => read_padBuffer_above hn hi h16,
    ⟨_, (finalState s.params.tag512 s).lanes, rfl, by rw [finalState_lanes, xorRate_eq, xorTag_eq],
      fun i j hj => finish512_dig_lower_lane s i hj, finish512_lanes s⟩,
    fun i j hj => finish512_dig_upper_lane s i hj, by simp⟩

/-- Settles O38: UPDATE maps UPD over the bytes, so it carries concatenation of parts to concatenation of
commands, and a sequence goes on from where its first part ends (`execAll_append_of_next`). -/
theorem streamingEquivalence : Obligations.StreamingEquivalence := by
  unfold Obligations.StreamingEquivalence
  simp only [Pseudo.expand]
  refine ⟨congrFun expandUpdate_eq_map, fun parts i s => ?partition, fun a b s t h => ?append, fun s => rfl⟩
  case partition => rw [expandUpdate_flatten]
  case append => rw [expandUpdate_append, execAll_append_of_next _ h]

/-- Settles O18: NEW leaves `respondOk (freshHasher s)`, whose fields are read off one by one; it depends on
`s` only in what NEW does not write, so a second NEW leaves it as it is. -/
theorem newStartsFreshHasher : Obligations.NewStartsFreshHasher := by
  unfold Obligations.NewStartsFreshHasher
  refine ⟨decode_encode .new, fun b hb => (decode_append _ b).trans (withoutOperand_reserved hb .new),
    fun s he => ⟨respondOk (freshHasher s), exec_new_runs he, ?_⟩,
    fun c => (exec_new_runs rfl).trans (congrArg _ (respondOk_freshHasher_resetWith c)),
    fun s he => exec_refused _ he⟩
  have hagain : exec .new (respondOk (freshHasher s)) = .next (respondOk (freshHasher s)) :=
    (exec_new_runs (s := respondOk (freshHasher s)) he).trans (congrArg _ (freshHasher_respondOk_freshHasher s))
  simp [hagain]

end
end

section
/-! PROOFS. The family of 60_exceptions.md: the two faults, the order of the checks, what a fault writes, and the
way out of it. -/

namespace Sys2Proof.Machine

variable {s t : State} {w : CommandWord} {i : Instr}

/-! ### What a command does when it runs -/

/-- The body of each command, the checks of R173 left out (`exec_runs`). -/
def commandBody : Instr → State → State
  | .new    => freshHasher
  | .upd b  => appendByte b
  | .fin256 => finish256
  | .fin512 => finish512

@[simp] theorem commandBody_err (i : Instr) (s : State) : (commandBody i s).err = s.err := by
  cases i with
  | new => exact freshHasher_err s
  | upd b => exact appendByte_err b s
  | fin256 => exact finish256_err s
  | fin512 => exact finish512_err s

@[simp] theorem commandBody_errc (i : Instr) (s : State) : (commandBody i s).errc = s.errc := by
  cases i with
  | new => exact freshHasher_errc s
  | upd b => exact appendByte_errc b s
  | fin256 => exact finish256_errc s
  | fin512 => exact finish512_errc s

theorem exec_runs (he : s.err = false) (hi : i = .new ∨ s.phase = .absorbing) (hn : s.n.toNat < rateBytes) :
    exec i s = .next (respondOk (commandBody i s)) := by
  cases i with
  | new => exact exec_new_runs he
  | upd b => exact exec_upd_runs b he (hi.resolve_left Instr.noConfusion) hn
  | fin256 => exact exec_fin256_runs he (hi.resolve_left Instr.noConfusion) hn
  | fin512 => exact exec_fin512_runs he (hi.resolve_left Instr.noConfusion) hn

/-! ### The checks of a command: the phase decides between MISUSE and running (R173) -/

/-- The phase check passes or fails: NEW is legal in both phases, the others in the absorbing one. -/
theorem runs_or_misuses (i : Instr) (s : State) :
    (i = .new ∨ s.phase = .absorbing) ∨ (i ≠ .new ∧ s.phase = .consumed) := by
  by_cases hi : i = .new
  · exact .inl (.inl hi)
  · cases hp : s.phase with
    | absorbing => exact .inl (.inr rfl)
    | consumed => exact .inr ⟨hi, rfl⟩

theorem exec_completes (i : Instr) (he : s.err = false) (hn : s.n.toNat < rateBytes) : ∃ t, exec i s = .next t := by
  rcases runs_or_misuses i s with hrun | ⟨hi, hp⟩
  · exact ⟨_, exec_runs he hrun hn⟩
  · exact ⟨_, exec_misuse hi he hp⟩

theorem present_completes (w : CommandWord) (he : s.err = false) (hn : s.n.toNat < rateBytes) :
    ∃ t, present w s = .next t := by
  rcases decode_cases w with hw | ⟨i, hw⟩
  · exact ⟨_, present_reserved he hw⟩
  · rw [present_command he hw]
    exact exec_completes i he hn

/-! ### The two faults (R170 to R172) -/

/-- Whatever the count: an unfaulted instance stays unfaulted or takes one of the two faults. -/
theorem present_unfaulted (he : s.err = false) (h : present w s = .next t) : t.err = false ∨ ∃ c, t = raise c s := by
  rcases decode_cases w with hw | ⟨i, hw⟩
  · rw [present_reserved he hw] at h
    cases h
    exact .inr ⟨_, rfl⟩
  · rw [present_command he hw] at h
    exact (exec_unfaulted he h).imp_right fun ht => ⟨_, ht⟩

/-- A presentation that sets `ERR` wrote the code of one of the two faults, the response, and nothing else. -/
theorem present_fault_writes (he : s.err = false) (h : present w s = .next t) (ht : t.err = true) :
    (t.errc = 1#2 ∨ t.errc = 2#2) ∧ t = { s with err := true, errc := t.errc, resp := some (.fault t.errc) } := by
  rcases present_unfaulted he h with hok | ⟨c, rfl⟩
  · simp [hok] at ht
  · refine ⟨?_, raise_eq c s⟩
    cases c with
    | misuse => exact .inl rfl
    | illegal => exact .inr rfl

/-- `ERR` with the code of MISUSE tells a hasher command on a consumed instance from every other word: a reserved
word leaves the other code, and a command that runs leaves `ERR` clear. -/
theorem present_misuse_iff (he : s.err = false) (hn : s.n.toNat < rateBytes) (h : present w s = .next t) :
    (t.err = true ∧ t.errc = FaultCause.misuse.code) ↔
      s.phase = .consumed ∧ ∃ i, decode w = .command i ∧ i ≠ .new := by
  rcases decode_cases w with hw | ⟨i, hw⟩
  · rw [present_reserved he hw] at h
    cases h
    obtain ⟨why, hw⟩ := hw
    simp [hw, FaultCause.code]
  · rw [present_command he hw] at h
    rcases runs_or_misuses i s with hrun | ⟨hi, hp⟩
    · rw [exec_runs he hrun hn] at h
      cases h
      rcases hrun with rfl | hp
      · simp [he, hw]
      · simp [he, hp]
    · rw [exec_misuse hi he hp] at h
      cases h
      simp [hw, hi, hp, FaultCause.code]

theorem exists_ne_new_iff {P : Instr → Prop} : (∃ i, P i ∧ i ≠ .new) ↔ (∃ b, P (.upd b)) ∨ P .fin256 ∨ P .fin512 := by
  constructor
  · rintro ⟨i, hP, hi⟩
    cases i with
    | new => exact absurd rfl hi
    | upd b => exact .inl ⟨b, hP⟩
    | fin256 => exact .inr (.inl hP)
    | fin512 => exact .inr (.inr hP)
  · rintro (⟨b, hP⟩ | hP | hP)
    · exact ⟨_, hP, by simp⟩
    · exact ⟨_, hP, by simp⟩
    · exact ⟨_, hP, by simp⟩

/-! ### The step of a faulted instance, and reset (R174) -/

/-- Everything a step of a faulted instance can do: idle, refuse, or take the host's reset. -/
theorem step_faulted_cases (he : s.err = true) (h : step s = .next t) :
    t = s ∨ (∃ rest, t = refuse (s.setInput rest)) ∨ ∃ rest, s.input = .reset :: rest := by
  cases hin : s.input with
  | nil =>
    rw [step_nil hin] at h
    cases h
    exact .inl rfl
  | cons e rest =>
    rw [step_cons hin] at h
    cases e with
    | reset => exact .inr (.inr ⟨rest, rfl⟩)
    | command w =>
      have hrefused : present w (s.setInput rest) = .next (refuse (s.setInput rest)) := present_refused he
      cases hrefused.symm.trans h
      exact .inr (.inl ⟨rest, rfl⟩)

theorem step_reset {rest : List HostEvent} (h : s.input = .reset :: rest) :
    step s = .next (assertReset (s.setInput rest)) := step_cons h

end Sys2Proof.Machine

section
open Sys2Proof Sys2Proof.Machine

/-- Settles O8: one lemma for each check of R173 in its order, `present_refused`, `present_reserved`,
`exec_misuse`, and last `exec_runs`, whose body writes neither `ERR` nor `ERRC`. -/
theorem checksInOrder : Obligations.ChecksInOrder := by
  unfold Obligations.ChecksInOrder
  intro w s hn
  refine ⟨fun he => present_refused he, fun he hw => present_reserved he hw, fun he i hw hi hp => ?misuse,
    fun he i hw hrun => ⟨present_command he hw, _, exec_runs he hrun hn, ?answer⟩⟩
  case misuse => rw [present_command he hw, exec_misuse hi he hp]
  case answer => simp [he]

/-- Settles O9: a presentation completes when the count is at rest; each code is traced to its cause by an
equivalence (`present_misuse_iff`, `present_illegal_iff`). -/
theorem exactlyTwoFaults : Obligations.ExactlyTwoFaults := by
  unfold Obligations.ExactlyTwoFaults
  intro w s hn he
  obtain ⟨t, h⟩ := present_completes w he hn
  refine ⟨t, h, ?misuse, ?illegal, present_fault_writes he h⟩
  case misuse => exact (present_misuse_iff he hn h).trans (and_congr_right' exists_ne_new_iff)
  case illegal => exact (present_illegal_iff he h).trans (decodeFields_reserved_iff (splitCommand w))

/-- Settles O10: the fault is one of two raises, which write only their code (`present_fault_writes`); a faulted
instance refuses before it decodes. -/
theorem faultWritesOnlyItsCode : Obligations.FaultWritesOnlyItsCode := by
  unfold Obligations.FaultWritesOnlyItsCode
  exact ⟨fun _ _ _ h he ht => present_fault_writes he h ht, fun _ _ he => present_refused he⟩

/-- Settles O11: a step of a faulted instance idles, refuses or resets (`step_faulted_cases`), and idling and
refusing keep the hasher and the code. -/
theorem faultIsStickyUntilReset : Obligations.FaultIsStickyUntilReset := by
  unfold Obligations.FaultIsStickyUntilReset
  refine ⟨fun s t he h => ?sticky, fun s rest h => ⟨_, step_reset h, ?reset⟩⟩
  case sticky =>
    rcases step_faulted_cases he h with rfl | ⟨rest, rfl⟩ | hreset
    · simp [he]
    · simp [he]
    · exact .inl hreset
  case reset => simp [assertReset_eq]

end
end

section
/-! PROOFS. The family of 70_reset_and_hazards.md: use after finalize. -/

namespace Sys2Proof.Machine

variable {body : State → State} {s t : State}

/-! ### The answer OK tells a command that ran (30_encoding.md R74) -/

/-- A command of the hasher that answers OK ran its body on an unfaulted instance: a refusal and MISUSE answer
`FAULT`. -/
theorem hasherCommand_ok (h : hasherCommand body s = .next t) (hok : t.resp = some .ok) :
    s.err = false ∧ t = respondOk (body s) := by
  rcases hasherCommand_cases h with ⟨-, rfl⟩ | ⟨-, -, rfl⟩ | ⟨he, -, -, ht⟩
  · simp at hok
  · simp at hok
  · exact ⟨he, ht⟩

theorem exec_finalize_ok_consumes {i : Instr} (hi : i = .fin256 ∨ i = .fin512) (h : exec i s = .next t)
    (hok : t.resp = some .ok) : t.phase = .consumed ∧ t.err = false := by
  rcases hi with rfl | rfl
  · obtain ⟨he, rfl⟩ := hasherCommand_ok h hok
    simp [he]
  · obtain ⟨he, rfl⟩ := hasherCommand_ok h hok
    simp [he]

end Sys2Proof.Machine

section
open Sys2Proof Sys2Proof.Machine

/-- Settles O12: a finalize that answers OK consumes the instance (`exec_finalize_ok_consumes`), NEW runs in both
phases, and any other command is MISUSE (`exec_misuse`), whose state already holds the answer `exec_refused` gives
to every later command. -/
theorem useAfterFinalizeIsMisuse : Obligations.UseAfterFinalizeIsMisuse := by
  unfold Obligations.UseAfterFinalizeIsMisuse
  exact ⟨fun s t i hi h hok => exec_finalize_ok_consumes hi h hok,
    fun s he _ => ⟨_, exec_new_runs he, respondOk_resp _⟩,
    fun s i he hp hi => ⟨_, exec_misuse hi he hp, rfl, fun j => exec_refused j rfl⟩⟩

end
end

section
/-! PROOFS. What a command, a presented word and a step can do, said once each; the statements that follow from
the shape of the step alone. -/

namespace Sys2Proof.Machine

variable {s t : State} {i : Instr} {w : CommandWord}

/-! ### A command (60_exceptions.md R173) -/

/-- The checks of R173 behind the fault flag pass and the count is one the model can store at (log 8): the command
executes. -/
def Ready (i : Instr) (s : State) : Prop := i = .new ∨ (s.phase = .absorbing ∧ s.n.toNat < rateBytes)

theorem exec_of_ready (he : s.err = false) (hr : Ready i s) : exec i s = .next (respondOk (commandBody i s)) := by
  rcases hr with rfl | ⟨hp, hn⟩
  · exact exec_new_runs he
  · exact exec_runs he (.inr hp) hn

theorem exec_eq_hasherCommand (hi : i ≠ .new) (s : State) : exec i s = hasherCommand (commandBody i) s := by
  cases i with
  | new => exact absurd rfl hi
  | upd b => rfl
  | fin256 => rfl
  | fin512 => rfl

/-- Everything a command can do when it answers a next state. -/
theorem exec_cases (h : exec i s = .next t) :
    (s.err = true ∧ t = refuse s) ∨ (s.err = false ∧ i ≠ .new ∧ s.phase = .consumed ∧ t = raise .misuse s) ∨
      (s.err = false ∧ Ready i s ∧ t = respondOk (commandBody i s)) := by
  by_cases hi : i = .new
  · subst hi
    rcases anyPhaseCommand_cases h with hrefused | ⟨he, ht⟩
    · exact .inl hrefused
    · exact .inr (.inr ⟨he, .inl rfl, ht⟩)
  · rw [exec_eq_hasherCommand hi] at h
    rcases hasherCommand_cases h with hrefused | ⟨he, hp, ht⟩ | ⟨he, hp, hn, ht⟩
    · exact .inl hrefused
    · exact .inr (.inl ⟨he, hi, hp, ht⟩)
    · exact .inr (.inr ⟨he, .inr ⟨hp, hn⟩, ht⟩)

theorem exec_ok (h : exec i s = .next t) (hok : t.resp = some .ok) :
    s.err = false ∧ Ready i s ∧ t = respondOk (commandBody i s) := by
  rcases exec_cases h with ⟨-, rfl⟩ | ⟨-, -, -, rfl⟩ | hran
  · simp at hok
  · simp at hok
  · exact hran

/-- A count that the spec excludes stops a command that would store at it (log 8). -/
theorem exec_overrun (hi : i ≠ .new) (he : s.err = false) (hp : s.phase = .absorbing) (hn : ¬ s.n.toNat < rateBytes) :
    exec i s = .fault .bufferIndex := by
  rw [exec_eq_hasherCommand hi, hasherCommand_overrun he hp hn]

/-- A command goes on, or it is stopped by the count of log 8. -/
theorem exec_completes_or_overruns (i : Instr) (s : State) :
    (∃ t, exec i s = .next t) ∨
      (exec i s = .fault .bufferIndex ∧ s.err = false ∧ s.phase = .absorbing ∧ ¬ s.n.toNat < rateBytes) := by
  cases he : s.err with
  | true => exact .inl ⟨_, exec_refused i he⟩
  | false =>
    rcases runs_or_misuses i s with hrun | ⟨hi, hp⟩
    · by_cases hn : s.n.toNat < rateBytes
      · exact .inl ⟨_, exec_runs he hrun hn⟩
      · by_cases hi : i = .new
        · exact .inl ⟨_, exec_of_ready he (.inl hi)⟩
        · have hp := hrun.resolve_left hi
          exact .inr ⟨exec_overrun hi he hp hn, rfl, hp, hn⟩
    · exact .inl ⟨_, exec_misuse hi he hp⟩

/-! ### A presented word -/

/-- Everything a presented word can do when it is answered: refusal, a fault, or a command that executes. -/
theorem present_cases (h : present w s = .next t) :
    (s.err = true ∧ t = refuse s) ∨ (s.err = false ∧ ∃ c, t = raise c s) ∨
      (s.err = false ∧ ∃ i, decode w = .command i ∧ Ready i s ∧ t = respondOk (commandBody i s)) := by
  cases he : s.err with
  | true =>
    rw [present_refused he] at h
    cases h
    exact .inl ⟨rfl, rfl⟩
  | false =>
    rcases decode_cases w with hw | ⟨i, hw⟩
    · rw [present_reserved he hw] at h
      cases h
      exact .inr (.inl ⟨rfl, _, rfl⟩)
    · rw [present_command he hw] at h
      rcases exec_cases h with ⟨hf, -⟩ | ⟨-, -, -, rfl⟩ | ⟨-, hr, rfl⟩
      · simp [he] at hf
      · exact .inr (.inl ⟨rfl, _, rfl⟩)
      · exact .inr (.inr ⟨rfl, i, hw, hr, rfl⟩)

theorem present_of_decode (hw : decode w = .command i) (s : State) : present w s = exec i s := by
  cases he : s.err with
  | true => rw [present_refused he, exec_refused i he, refuse_eq]
  | false => exact present_command he hw

/-- A word is answered, or it is stopped by the count of log 8. -/
theorem present_completes_or_overruns (w : CommandWord) (s : State) :
    (∃ t, present w s = .next t) ∨
      (present w s = .fault .bufferIndex ∧ s.err = false ∧ s.phase = .absorbing ∧ ¬ s.n.toNat < rateBytes) := by
  rcases decode_cases w with hw | ⟨i, hw⟩
  · cases he : s.err with
    | true => exact .inl ⟨_, present_refused he⟩
    | false => exact .inl ⟨_, present_reserved he hw⟩
  · rw [present_of_decode hw]
    exact exec_completes_or_overruns i s

/-! ### A step -/

/-- Everything a step can do when it goes on: it idles, resets, refuses a word, takes a fault, or executes a
command. -/
theorem step_cases (h : step s = .next t) :
    (s.input = [] ∧ t = s) ∨ ∃ rest,
      (s.input = .reset :: rest ∧ t = assertReset (s.setInput rest)) ∨ ∃ w, s.input = .command w :: rest ∧
        ((s.err = true ∧ t = refuse (s.setInput rest)) ∨ (s.err = false ∧ ∃ c, t = raise c (s.setInput rest)) ∨
          (s.err = false ∧ ∃ i, decode w = .command i ∧ Ready i s ∧
            t = respondOk (commandBody i (s.setInput rest)))) := by
  cases hin : s.input with
  | nil =>
    rw [step_nil hin] at h
    cases h
    exact .inl ⟨rfl, rfl⟩
  | cons e rest =>
    refine .inr ⟨rest, ?_⟩
    cases e with
    | reset =>
      rw [step_reset hin] at h
      cases h
      exact .inl ⟨rfl, rfl⟩
    | command w =>
      rw [step_cons hin] at h
      exact .inr ⟨w, rfl, present_cases h⟩

/-- A step goes on, or it is stopped by the count of log 8. -/
theorem step_completes_or_overruns (s : State) :
    (∃ t, step s = .next t) ∨
      (step s = .fault .bufferIndex ∧ s.err = false ∧ s.phase = .absorbing ∧ ¬ s.n.toNat < rateBytes) := by
  cases hin : s.input with
  | nil => exact .inl ⟨s, step_nil hin⟩
  | cons e rest =>
    rw [step_cons hin]
    cases e with
    | reset => exact .inl ⟨_, rfl⟩
    | command w => exact present_completes_or_overruns w (s.setInput rest)

/-- What every event of a step keeps, every step keeps. -/
theorem step_keeps {P : State → Prop} (hinput : ∀ rest, P s → P (s.setInput rest))
    (hreset : ∀ s, P s → P (assertReset s)) (hrefuse : ∀ s, s.err = true → P s → P (refuse s))
    (hraise : ∀ c s, s.err = false → P s → P (raise c s))
    (hbody : ∀ i s, s.err = false → Ready i s → P s → P (respondOk (commandBody i s)))
    (hP : P s) (h : step s = .next t) : P t := by
  rcases step_cases h with ⟨-, rfl⟩ | ⟨rest, ⟨-, rfl⟩ | ⟨w, -, ⟨he, rfl⟩ | ⟨he, c, rfl⟩ | ⟨he, i, -, hr, rfl⟩⟩⟩
  · exact hP
  · exact hreset _ (hinput rest hP)
  · exact hrefuse _ he (hinput rest hP)
  · exact hraise c _ he (hinput rest hP)
  · exact hbody i _ he hr (hinput rest hP)

/-! ### What no command body writes -/

@[simp] theorem commandBody_input (i : Instr) (s : State) : (commandBody i s).input = s.input := by
  cases i with
  | new => exact freshHasher_input s
  | upd b => exact appendByte_input b s
  | fin256 => exact finish256_input s
  | fin512 => exact finish512_input s

@[simp] theorem commandBody_params (i : Instr) (s : State) : (commandBody i s).params = s.params := by
  cases i with
  | new => exact freshHasher_params s
  | upd b => exact appendByte_params b s
  | fin256 => exact finish256_params s
  | fin512 => exact finish512_params s

theorem withFetchWord_encode (s : State) (i : Instr) :
    (s.withFetchWord 16 (encode i).toNat).input = .command (encode i) :: s.input := by
  have hword : BitVec.ofNat 16 ((encode i).toNat % 2 ^ 16) = encode i := by
    rw [Nat.mod_eq_of_lt (encode i).isLt, BitVec.ofNat_toNat, BitVec.setWidth_eq]
  simp only [State.withFetchWord, hword]

end Sys2Proof.Machine

section
open Sys2Proof Sys2Proof.Machine

/-- Settles O1: `decode_encode` one way, `encode_of_decode` the other. -/
theorem commandWordsRoundTrip : Obligations.CommandWordsRoundTrip := by
  unfold Obligations.CommandWordsRoundTrip
  exact ⟨decode_encode, fun w i h => encode_of_decode h⟩

/-- Settles O13: a step goes on or is stopped by the count (`step_completes_or_overruns`). -/
theorem noRefusalAndOneStop : Obligations.NoRefusalAndOneStop := by
  unfold Obligations.NoRefusalAndOneStop
  intro s
  rcases step_completes_or_overruns s with ⟨t, ht⟩ | ⟨hstop, he, hp, hn⟩
  · simp [ht]
  · rw [hstop]
    refine ⟨fun r => by simp, fun r h => ?_⟩
    cases h
    exact ⟨rfl, Nat.le_of_not_lt hn, he, hp⟩

/-- Settles O53: a step's events keep the parameters, each by its own field lemma (`step_keeps`). -/
theorem parametersNeverChange : Obligations.ParametersNeverChange := by
  unfold Obligations.ParametersNeverChange
  refine ⟨fun s t h => ?_, fun c => rfl⟩
  refine step_keeps (P := fun u => u.params = s.params) (fun _ hP => hP) (fun _ hP => hP) (fun _ _ hP => hP)
    (fun _ _ _ hP => hP) (fun i u _ _ hP => ?_) rfl h
  rw [respondOk_params, commandBody_params, hP]

/-- Settles O2: each of the four legal words with `imm8` zero, and two bytes of UPD, is an encoding; the decoder
evaluates the reserved ones. -/
theorem printedWordsDecode : Obligations.PrintedWordsDecode := by
  unfold Obligations.PrintedWordsDecode
  exact ⟨decode_encode .new, decode_encode (.upd 0x00#8), decode_encode (.upd 0x41#8), decode_encode (.upd 0xFF#8),
    decode_encode .fin256, decode_encode .fin512, by decide⟩

/-- Settles O5: a step presents the word it finds (`step_cons`), and presenting a command's word executes it on a
faulted instance too, where both refuse (`present_of_decode`). -/
theorem stepRunsDecodedCommand : Obligations.StepRunsDecodedCommand := by
  unfold Obligations.StepRunsDecodedCommand
  constructor
  · intro s w i rest hin hw
    exact (step_cons hin).trans (present_of_decode hw _)
  · intro s w rest hin
    exact step_cons hin

/-- Settles O6: the placed word is the command's encoding (`withFetchWord_encode`), which decodes back, and the
step uses up that event alone. -/
theorem placedWordRunsNext : Obligations.PlacedWordRunsNext := by
  unfold Obligations.PlacedWordRunsNext
  intro s i
  exact (step_cons (withFetchWord_encode s i)).trans (present_of_decode (decode_encode i) _)

/-- Settles O7. -/
theorem idleStepChangesNothing : Obligations.IdleStepChangesNothing := by
  unfold Obligations.IdleStepChangesNothing
  exact fun s hin => step_nil hin

/-- Settles O14. -/
theorem countOutOfRangeStops : Obligations.CountOutOfRangeStops := by
  unfold Obligations.CountOutOfRangeStops
  exact fun s i he hp hn hi => exec_overrun hi he hp (Nat.not_lt.mpr hn)

/-- Settles O16: reset gives its values to any state (`assertReset_eq`); of the other events of a step of a faulted
instance, idling and refusing keep `ERR` (`step_faulted_cases`). -/
theorem resetFromAnyState : Obligations.ResetFromAnyState := by
  unfold Obligations.ResetFromAnyState
  constructor
  · intro s rest hin
    exact ⟨_, step_reset hin, by simp [assertReset_eq]⟩
  · intro s t h he ht
    rcases step_faulted_cases he h with rfl | ⟨rest, rfl⟩ | hreset
    · simp [he] at ht
    · simp [he] at ht
    · exact hreset

/-- Settles O17: the four words are those of `defaultIV`, which `State.reset` loads. -/
theorem resetLoadsTheDefaultIV : Obligations.ResetLoadsTheDefaultIV := by
  unfold Obligations.ResetLoadsTheDefaultIV
  have hiv : State.reset.lanes = defaultIV := resetWith_lanes config
  rw [hiv]
  exact ⟨rfl, rfl, rfl, rfl⟩

end
end

section
/-! PROOFS. The family of 40_chaotic_map_f.md: the closed form of F, its datapaths, symmetries and zeros; and what
they give for STEP (41_permutation_phi.md section 3). -/

namespace Sys2Proof.Machine

/-! ### The closed form (R91) -/

theorem shiftLeft_two (x : Word) : x <<< 2 = 4#64 * x := by
  rw [BitVec.shiftLeft_eq_mul_twoPow, BitVec.mul_comm]
  rfl

/-- The half-range boundary vanishes in a product with 4, so the upper branch of `F` is the lower one (R91). -/
theorem upper_branch_eq_lower (x : Word) :
    ((0#64 - x) * (x - halfRange)) <<< 2 = (x * (0#64 - x)) <<< 2 := by
  have hvanish : 4#64 * halfRange = 0#64 := by decide
  rw [shiftLeft_two, shiftLeft_two]
  grind

theorem chaoticMap_eq_single (x : Word) : chaoticMap x = chaoticMapSingle x := by
  simp only [chaoticMap, chaoticMapSingle]
  split
  · rfl
  · exact upper_branch_eq_lower x

theorem chaoticMap_closed (x : Word) : chaoticMap x = 0#64 - 4#64 * x * x := by
  rw [chaoticMap_eq_single, chaoticMapSingle, shiftLeft_two]
  grind

/-! ### The datapaths (R93) -/

theorem lt_halfRange_iff (x : Word) : x < halfRange ↔ x.getLsbD 63 = false := by
  rw [BitVec.lt_def, ← BitVec.msb_eq_getLsbD_last, BitVec.msb_eq_false_iff_two_mul_lt]
  have hhalf : halfRange.toNat = 2 ^ 63 := by decide
  rw [hhalf]
  omega

theorem chaoticMapMux_eq (x : Word) : chaoticMapMux x = chaoticMap x := by
  simp only [chaoticMapMux, chaoticMap, lt_halfRange_iff]
  cases x.getLsbD 63 <;> rfl

theorem ushiftRight_63 (x : Word) : x >>> 63 = if x.getLsbD 63 then 1#64 else 0#64 := by
  apply BitVec.eq_of_getLsbD_eq
  intro i hi
  rw [BitVec.getLsbD_ushiftRight]
  cases i with
  | zero => cases x.getLsbD 63 <;> rfl
  | succ i =>
    rw [BitVec.getLsbD_of_ge x _ (by omega)]
    split <;> simp

theorem getLsbD_halfRange (i : Nat) : halfRange.getLsbD i = decide (i = 63) := by
  rw [show halfRange = BitVec.twoPow 64 63 from rfl, BitVec.getLsbD_twoPow]
  simp [eq_comm]

/-- Where `x[63]` is set, clearing it subtracts the half-range boundary (R92). -/
theorem and_not_halfRange {x : Word} (h : x.getLsbD 63 = true) : x &&& ~~~halfRange = x - halfRange := by
  have hdisjoint : x &&& ~~~halfRange &&& halfRange = 0#64 := by
    rw [BitVec.and_assoc, show ~~~halfRange &&& halfRange = 0#64 from rfl, BitVec.and_zero]
  have hsum : x &&& ~~~halfRange ||| halfRange = x := by
    apply BitVec.eq_of_getLsbD_eq
    intro i hi
    rw [BitVec.getLsbD_or, BitVec.getLsbD_and, BitVec.getLsbD_not, getLsbD_halfRange]
    by_cases h63 : i = 63
    · rw [h63, h]
      rfl
    · simp [h63, hi]
  rw [BitVec.eq_sub_iff_add_eq, BitVec.add_eq_or_of_and_eq_zero _ _ hdisjoint, hsum]

/-- The mask `m` of R93 (b) is all ones or zero and selects the operands of the branch `x[63]` names. -/
theorem chaoticMapMasked_eq (x : Word) : chaoticMapMasked x = chaoticMap x := by
  have hones : 0#64 - 1#64 = BitVec.allOnes 64 := by decide
  rw [← chaoticMapMux_eq]
  simp only [chaoticMapMasked, chaoticMapMux, ushiftRight_63]
  cases h : x.getLsbD 63 with
  | false =>
    simp only [Bool.false_eq_true, if_false, BitVec.sub_zero, BitVec.not_zero, BitVec.and_allOnes, BitVec.and_zero,
      BitVec.or_zero]
  | true =>
    simp only [if_true, hones, BitVec.not_allOnes, BitVec.and_zero, BitVec.and_allOnes, BitVec.zero_or,
      and_not_halfRange h]

/-! ### Symmetries (R94 items 1 to 3) -/

theorem chaoticMap_neg (x : Word) : chaoticMap (0#64 - x) = chaoticMap x := by
  rw [chaoticMap_closed, chaoticMap_closed]
  grind

/-- A multiple of `2^61` vanishes in `4*x*x` but for its product with itself and with `x`, both multiples of
`2^64`. -/
theorem chaoticMap_add_pow61 (x q : Word) : chaoticMap (x + 0x2000000000000000#64 * q) = chaoticMap x := by
  rw [chaoticMap_closed, chaoticMap_closed]
  grind

theorem chaoticMap_mod_pow61 (x : Word) : chaoticMap x = chaoticMap (BitVec.ofNat 64 (x.toNat % 2 ^ 61)) := by
  have hsplit : x =
      BitVec.ofNat 64 (x.toNat % 2 ^ 61) + 0x2000000000000000#64 * BitVec.ofNat 64 (x.toNat / 2 ^ 61) := by
    apply BitVec.eq_of_toNat_eq
    have hx := x.isLt
    simp only [BitVec.toNat_add, BitVec.toNat_mul, BitVec.toNat_ofNat]
    omega
  conv_lhs => rw [hsplit, chaoticMap_add_pow61]

/-- Adding `2^60` adds `2^63 * x` to the image, which is bit 0 of `x` moved to bit 63. -/
theorem chaoticMap_add_pow60 (x : Word) :
    chaoticMap (x + 0x1000000000000000#64) = chaoticMap x + BitVec.ofNat 64 (x.toNat % 2 * 2 ^ 63) := by
  have hodd : BitVec.ofNat 64 (x.toNat % 2 * 2 ^ 63) = 0x8000000000000000#64 * x := by
    apply BitVec.eq_of_toNat_eq
    simp only [BitVec.toNat_mul, BitVec.toNat_ofNat]
    omega
  rw [chaoticMap_closed, chaoticMap_closed, hodd]
  grind

/-! ### Trailing zeros (R94 items 4 and 5) -/

/-- `F(x)` and `(2x)^2` cancel modulo `2^64`. -/
theorem pow64_dvd_chaoticMap_add_sq (x : Word) : 2 ^ 64 ∣ (chaoticMap x).toNat + (2 * x.toNat) ^ 2 := by
  have hzero : chaoticMap x + BitVec.ofNat 64 ((2 * x.toNat) ^ 2) = 0#64 := by
    have hsq : BitVec.ofNat 64 ((2 * x.toNat) ^ 2) = 4#64 * x * x := by
      have hexpand : (2 * x.toNat) ^ 2 = 4 * x.toNat * x.toNat := by ring
      apply BitVec.eq_of_toNat_eq
      simp only [BitVec.toNat_mul, BitVec.toNat_ofNat, Nat.mod_mul_mod, hexpand]
    rw [chaoticMap_closed, hsq]
    grind
  have hval := congrArg BitVec.toNat hzero
  rw [BitVec.toNat_add, BitVec.toNat_ofNat, Nat.add_mod_mod] at hval
  exact Nat.dvd_of_mod_eq_zero hval

/-- So `F(x)` has the trailing zero bits of `(2x)^2`, as far as the word goes. -/
theorem pow_dvd_chaoticMap_iff (x : Word) {k : Nat} (hk : k ≤ 64) :
    2 ^ k ∣ (chaoticMap x).toNat ↔ 2 ^ k ∣ (2 * x.toNat) ^ 2 := by
  have hsum := (pow_dvd_pow 2 hk).trans (pow64_dvd_chaoticMap_add_sq x)
  exact ⟨fun h => (Nat.dvd_add_right h).mp hsum, fun h => (Nat.dvd_add_left h).mp hsum⟩

theorem pow_even_dvd_chaoticMap_iff (x : Word) {v : Nat} (hv : 2 * v + 2 ≤ 64) :
    2 ^ (2 * v + 2) ∣ (chaoticMap x).toNat ↔ 2 ^ v ∣ x.toNat := by
  rw [pow_dvd_chaoticMap_iff x hv, show 2 * v + 2 = (v + 1) * 2 by ring, pow_mul,
    Nat.pow_dvd_pow_iff two_ne_zero, pow_succ', Nat.mul_dvd_mul_iff_left two_pos]

/-- An odd power of 2 divides a square only if the next one does. -/
theorem pow_succ_dvd_of_pow_odd_dvd_chaoticMap (x : Word) {v : Nat} (hv : 2 * v + 3 ≤ 64)
    (h : 2 ^ (2 * v + 3) ∣ (chaoticMap x).toNat) : 2 ^ (v + 1) ∣ x.toNat := by
  obtain ⟨c, hc⟩ : 2 ^ v ∣ x.toNat :=
    (pow_even_dvd_chaoticMap_iff x (Nat.le_of_succ_le hv)).mp (Dvd.dvd.trans ⟨2, pow_succ 2 _⟩ h)
  have hsquare : (2 * (2 ^ v * c)) ^ 2 = 2 ^ (2 * v + 2) * c ^ 2 := by
    rw [← mul_assoc, ← pow_succ', mul_pow, ← pow_mul, show (v + 1) * 2 = 2 * v + 2 by ring]
  rw [pow_dvd_chaoticMap_iff x hv, hc, hsquare, pow_succ] at h
  have hcsq : 2 ∣ c ^ 2 := Nat.dvd_of_mul_dvd_mul_left (Nat.two_pow_pos _) h
  rw [hc, pow_succ]
  exact Nat.mul_dvd_mul_left _ (Nat.prime_two.dvd_of_dvd_pow hcsq)

theorem chaoticMap_eq_zero_iff (x : Word) : chaoticMap x = 0#64 ↔ 2 ^ 31 ∣ x.toNat := by
  rw [← pow_even_dvd_chaoticMap_iff x (v := 31) (by norm_num)]
  constructor
  · intro h
    simp [h]
  · intro h
    exact BitVec.eq_of_toNat_eq (Nat.eq_zero_of_dvd_of_lt h (chaoticMap x).isLt)

/-! ### STEP on a single lane (41_permutation_phi.md R115) -/

theorem chaoticMap_zero : chaoticMap 0#64 = 0#64 := by decide

theorem chaoticMap_halfRange : chaoticMap halfRange = 0#64 := by decide

theorem latticeStep_lane0 (x : Word) : latticeStep ⟨x, 0, 0, 0⟩ = ⟨chaoticMap x, x <<< 11, 0, x >>> 13⟩ := by
  simp [latticeStep, chaoticMap_zero]

theorem latticeStep_lane1 (x : Word) : latticeStep ⟨0, x, 0, 0⟩ = ⟨x >>> 31, chaoticMap x, x <<< 29, 0⟩ := by
  simp [latticeStep, chaoticMap_zero]

theorem latticeStep_lane2 (x : Word) : latticeStep ⟨0, 0, x, 0⟩ = ⟨0, x >>> 23, chaoticMap x, x <<< 5⟩ := by
  simp [latticeStep, chaoticMap_zero]

theorem latticeStep_lane3 (x : Word) : latticeStep ⟨0, 0, 0, x⟩ = ⟨x <<< 17, 0, x >>> 47, chaoticMap x⟩ := by
  simp [latticeStep, chaoticMap_zero]

theorem phi_zero : phi ⟨0, 0, 0, 0⟩ = ⟨0, 0, 0, 0⟩ := by
  have hfixed : latticeStep ⟨0, 0, 0, 0⟩ = ⟨0, 0, 0, 0⟩ := latticeStep_lane0 0
  rw [phi_eq_iterate, Function.iterate_fixed hfixed]

end Sys2Proof.Machine

section
open Sys2Proof.Machine

/-- Settles O45. -/
theorem mapClosedForm : Obligations.MapClosedForm := by
  unfold Obligations.MapClosedForm
  exact chaoticMap_closed

/-- Settles O46. -/
theorem mapRealisationsAgree : Obligations.MapRealisationsAgree := by
  unfold Obligations.MapRealisationsAgree
  exact fun x => ⟨chaoticMapMux_eq x, chaoticMapMasked_eq x, (chaoticMap_eq_single x).symm⟩

/-- Settles O47: the symmetries are those of `4*x*x` modulo `2^64`; the four images are evaluated. -/
theorem mapSymmetries : Obligations.MapSymmetries := by
  unfold Obligations.MapSymmetries
  exact ⟨chaoticMap_zero, chaoticMap_halfRange, by decide, by decide, chaoticMap_neg,
    fun x => chaoticMap_add_pow61 x 1#64, chaoticMap_mod_pow61, chaoticMap_add_pow60⟩

/-- Settles O48: `F(x)` has the trailing zero bits of `(2x)^2` (`pow_dvd_chaoticMap_iff`). -/
theorem mapTrailingZeros : Obligations.MapTrailingZeros := by
  unfold Obligations.MapTrailingZeros
  simp only [← Nat.dvd_iff_mod_eq_zero, ne_eq]
  refine ⟨fun x => ?low, fun x v hv hv' => ⟨fun hfits => ⟨?exact_pow, ?no_more⟩, fun hover => ?zero⟩⟩
  case low => exact (pow_even_dvd_chaoticMap_iff x (v := 0) (by norm_num)).mpr (one_dvd _)
  case exact_pow => exact (pow_even_dvd_chaoticMap_iff x hfits.le).mpr hv
  case no_more => exact fun h => hv' (pow_succ_dvd_of_pow_odd_dvd_chaoticMap x hfits h)
  case zero => exact (chaoticMap_eq_zero_iff x).mpr ((pow_dvd_pow 2 (by omega)).trans hv)

/-- Settles O49. -/
theorem mapZeros : Obligations.MapZeros := by
  unfold Obligations.MapZeros
  exact fun x => (chaoticMap_eq_zero_iff x).trans Nat.dvd_iff_mod_eq_zero

/-- Settles O50: a zero lane has image zero and couples nothing, so one term is left in each lane; at the half-range
lane `F` and the left shift vanish, at the unit lane the right shift. -/
theorem latticeSingleLaneImages : Obligations.LatticeSingleLaneImages := by
  unfold Obligations.LatticeSingleLaneImages
  refine ⟨latticeStep_lane0 0, phi_zero,
    fun x => ⟨latticeStep_lane0 x, latticeStep_lane1 x, latticeStep_lane2 x, latticeStep_lane3 x⟩, ?_⟩
  simp only [latticeStep_lane0, latticeStep_lane1, latticeStep_lane2, latticeStep_lane3, chaoticMap_halfRange]
  decide

end
end

section
/-! PROOFS. What each command writes and what it leaves: the frames of NEW, UPD, FIN256 and FIN512, the phase
machine's table, and the only writers of the lanes and of the digest (10_state.md, 42_sponge_commands.md). -/

namespace Sys2Proof.Machine

variable {s t : State} {i : Instr} {b : Byte}

/-! ### UPD (R132) -/

theorem appendByte_n (b : Byte) (s : State) :
    (appendByte b s).n = if (s.n + 1#5).toNat = rateBytes then 0#5 else s.n + 1#5 := by
  by_cases hfull : (s.n + 1#5).toNat = rateBytes
  · rw [appendByte, pushByte_n, if_pos hfull, if_pos hfull, absorbBlock_n]
  · rw [appendByte, pushByte_n, if_neg hfull, if_neg hfull, pushByte_n]

theorem appendByte_n_toNat (b : Byte) (hn : s.n.toNat < rateBytes) :
    (appendByte b s).n.toNat = if s.n.toNat = 15 then 0 else s.n.toNat + 1 := by
  have hfull : (s.n + 1#5).toNat = rateBytes ↔ s.n.toNat = 15 := by
    rw [count_succ hn]
    exact Nat.succ_inj
  rw [appendByte_n]
  simp only [hfull]
  split
  · rfl
  · exact count_succ hn

theorem appendByte_lanes_below (b : Byte) (hn : s.n.toNat < rateBytes) (h15 : s.n.toNat ≠ 15) :
    (appendByte b s).lanes = s.lanes := by
  have hbelow : s.n.toNat + 1 < rateBytes := Nat.lt_of_le_of_ne hn fun h => h15 (Nat.succ_injective h)
  rw [appendByte_below hbelow, pushByte_lanes]

theorem appendByte_lanes_full (b : Byte) (h15 : s.n.toNat = 15) :
    (appendByte b s).lanes =
      phi (xorRate (loadWord (appendByte b s).buf 0) (loadWord (appendByte b s).buf 8) s.lanes) := by
  rw [appendByte_full (congrArg Nat.succ h15)]
  rfl

/-- What an UPD leaves on the ports and in the count does not depend on its byte. -/
theorem outputs_appendByte (b b' : Byte) (s : State) :
    outputs (respondOk (appendByte b' s)) = outputs (respondOk (appendByte b s)) ∧
      (respondOk (appendByte b' s)).n = (respondOk (appendByte b s)).n := by
  simp [outputs, appendByte_n]

/-! ### FIN256 and FIN512 (R140, R145) -/

theorem finish256_lanes_of_buf (s : State) : (finish256 s).lanes =
    phi (xorTag s.params.tag256
      (phi (xorRate (loadWord (finish256 s).buf 0) (loadWord (finish256 s).buf 8) s.lanes))) := by
  rw [finish256_lanes, finalState_lanes, finish256_buf]

theorem finish512_lanes_of_buf (s : State) : (finish512 s).lanes =
    phi (phi (xorTag s.params.tag512
      (phi (xorRate (loadWord (finish512 s).buf 0) (loadWord (finish512 s).buf 8) s.lanes)))) := by
  rw [finish512_lanes, finalState_lanes, finish512_buf]

theorem read_padBuffer_outside {a : Nat} (hn : s.n.toNat < rateBytes) (ha : a < s.n.toNat ∨ 16 ≤ a) :
    Memory.read (padBuffer s).buf a = Memory.read s.buf a := by
  rcases ha with hbelow | habove
  · exact read_padBuffer_below hn hbelow
  · have h16 : rateBytes = 16 := rfl
    rw [read_padBuffer hn, if_neg (by omega), if_neg (by omega), if_neg (by omega)]

theorem finish256_dig_above (s : State) {a : Nat} (ha : 64 ≤ a) :
    Memory.read (finish256 s).dig a = Memory.read s.dig a := by
  have hfill : squeezeBytes + (digestBytes - squeezeBytes) = 64 := rfl
  rw [finish256_dig, read_zeroFill, if_neg (by omega), read_squeezeTo, if_neg (by omega)]

theorem finish512_dig_above (s : State) {a : Nat} (ha : 64 ≤ a) :
    Memory.read (finish512 s).dig a = Memory.read s.dig a := by
  have hbase : squeezeBytes = 32 := rfl
  rw [finish512_dig, read_squeezeTo, if_neg (by omega), read_squeezeTo, if_neg (by omega)]

/-- Either finalize pads below index 16 and squeezes below index 64. -/
theorem finalize_frame (hi : i = .fin256 ∨ i = .fin512) (hn : s.n.toNat < rateBytes) :
    (∀ a, a < s.n.toNat ∨ 16 ≤ a → Memory.read (commandBody i s).buf a = Memory.read s.buf a) ∧
      ∀ a, 64 ≤ a → Memory.read (commandBody i s).dig a = Memory.read s.dig a := by
  rcases hi with rfl | rfl
  · exact ⟨fun a ha => (congrArg (Memory.read · a) (finish256_buf s)).trans (read_padBuffer_outside hn ha),
      fun a ha => finish256_dig_above s ha⟩
  · exact ⟨fun a ha => (congrArg (Memory.read · a) (finish512_buf s)).trans (read_padBuffer_outside hn ha),
      fun a ha => finish512_dig_above s ha⟩

/-! ### The tags (R7) -/

theorem xorTag_s3_bit_ne_iff (t t' : Word) (v : Lanes) (k : Nat) :
    (xorTag t v).s3.getLsbD k ≠ (xorTag t' v).s3.getLsbD k ↔ t.getLsbD k ≠ t'.getLsbD k := by
  simp [xorTag, BitVec.getLsbD_xor]

theorem tag256_bit (k : Nat) : config.tag256.getLsbD k = decide (k = 8) := by
  rw [show config.tag256 = BitVec.twoPow 64 8 from rfl, BitVec.getLsbD_twoPow]
  simp [eq_comm]

theorem tag512_bit (k : Nat) : config.tag512.getLsbD k = decide (k = 9) := by
  rw [show config.tag512 = BitVec.twoPow 64 9 from rfl, BitVec.getLsbD_twoPow]
  simp [eq_comm]

end Sys2Proof.Machine

section
open Sys2Proof Sys2Proof.Machine

/-- Settles O19: refused, NEW writes the response alone; run, it clears `D`, which reads as zero from index 64 on
already (`read_outside`). -/
theorem newFrame : Obligations.NewFrame := by
  unfold Obligations.NewFrame
  intro s t h
  rcases exec_cases h with ⟨he, rfl⟩ | ⟨-, hi, -⟩ | ⟨he, -, rfl⟩
  · simp
  · exact absurd rfl hi
  · have hdig : MemoryInv s → ∀ a, 64 ≤ a → Memory.read s.dig a = 0x00#8 :=
      fun hm a ha => read_outside hm.dig_within ha
    simp +contextual [commandBody, he, hdig]

/-- Settles O21: refused or misused, UPD writes the fault and the response alone; run, it writes `B[n]`, and the
lanes only when it fills the buffer (`appendByte_lanes_below`). -/
theorem updFrame : Obligations.UpdFrame := by
  unfold Obligations.UpdFrame
  intro b s t h
  rcases exec_cases h with ⟨he, rfl⟩ | ⟨he, -, hp, rfl⟩ | ⟨he, hr, rfl⟩
  · simp
  · simp [he, hp]
  · obtain ⟨hp, hn⟩ := hr.resolve_left Instr.noConfusion
    simp +contextual [commandBody, he, hp, read_write_other, appendByte_lanes_below _ hn]

/-- Settles O22: a fault is the overrun of the count, which does not look at the byte; a refusal and MISUSE are the
same for every byte; run, the outputs and the count agree (`outputs_appendByte`). -/
theorem byteValueNeverSteersControl : Obligations.ByteValueNeverSteersControl := by
  unfold Obligations.ByteValueNeverSteersControl
  intro b b' s
  constructor
  · intro t h
    rcases exec_cases h with ⟨he, rfl⟩ | ⟨he, -, hp, rfl⟩ | ⟨he, hr, rfl⟩
    · exact ⟨_, exec_refused _ he, rfl, rfl⟩
    · exact ⟨_, exec_misuse (by simp) he hp, rfl, rfl⟩
    · exact ⟨_, exec_of_ready he (.inr (hr.resolve_left Instr.noConfusion)), outputs_appendByte b b' s⟩
  · intro r h
    rcases exec_completes_or_overruns (.upd b) s with ⟨t, ht⟩ | ⟨hstop, he, hp, hn⟩
    · simp [ht] at h
    · exact (exec_overrun (by simp) he hp hn).trans (hstop.symm.trans h)

/-- Settles O25: as O21, with `finalize_frame` for the bytes a finalize that runs leaves. -/
theorem finFrame : Obligations.FinFrame := by
  unfold Obligations.FinFrame
  intro i s t hi h
  rcases exec_cases h with ⟨he, rfl⟩ | ⟨he, -, hp, rfl⟩ | ⟨he, hr, rfl⟩
  · simp
  · simp [he, hp]
  · obtain ⟨hp, hn⟩ := hr.resolve_left (by rcases hi with rfl | rfl <;> simp)
    simpa [he, hp] using finalize_frame hi hn

/-- Settles O26: XOR with the lane's own bit cancels, and the tags are the single bits 8 and 9. -/
theorem tagsSeparateTheModes : Obligations.TagsSeparateTheModes := by
  unfold Obligations.TagsSeparateTheModes
  refine ⟨by decide, fun v => ⟨rfl, rfl, rfl, fun k => ?_⟩⟩
  rw [xorTag_s3_bit_ne_iff, tag256_bit, tag512_bit, ne_eq, decide_eq_decide]
  omega

/-- Settles O27: one cell of the table after another, each the lemma of its command or of its fault. -/
theorem phaseMachineTable : Obligations.PhaseMachineTable := by
  unfold Obligations.PhaseMachineTable
  refine ⟨fun s rest hin => ⟨_, step_reset hin, by simp [assertReset_eq]⟩, fun s hn =>
    ⟨fun he hp => ⟨?new, fun b => ?upd, ?fin256, ?fin512⟩,
      fun he hp => ⟨?renew, fun i hi => exec_misuse hi he hp⟩,
      fun he w why hw => present_reserved he ⟨why, hw⟩, fun he w => present_refused he⟩⟩
  case new => exact ⟨_, exec_new_runs he, by simp [he]⟩
  case upd => exact ⟨_, exec_upd_runs b he hp hn, by simp [he, hp, appendByte_n_toNat b hn]⟩
  case fin256 => exact ⟨_, exec_fin256_runs he hp hn, by simp [he]⟩
  case fin512 => exact ⟨_, exec_fin512_runs he hp hn, by simp [he]⟩
  case renew => exact ⟨_, exec_new_runs he, by simp [he]⟩

/-- Settles O31: only reset and a command that runs write the lanes (`step_cases`); which lanes each command leaves
is said by its lane lemma, in terms of the buffer it leaves. -/
theorem lanesChangeOnlyByMicroOperations : Obligations.LanesChangeOnlyByMicroOperations := by
  unfold Obligations.LanesChangeOnlyByMicroOperations
  intro s t h hlanes
  rcases step_cases h with ⟨-, rfl⟩ | ⟨rest, ⟨hin, rfl⟩ | ⟨w, hin, ⟨-, rfl⟩ | ⟨-, c, rfl⟩ | ⟨-, i, hw, hr, rfl⟩⟩⟩
  · exact absurd rfl hlanes
  · exact .inl ⟨⟨rest, hin⟩, rfl⟩
  · exact absurd rfl hlanes
  · exact absurd rfl hlanes
  · refine .inr ⟨w, rest, hin, ?_⟩
    cases i with
    | new => exact .inl ⟨hw, rfl⟩
    | upd b =>
      obtain ⟨-, hn⟩ := hr.resolve_left Instr.noConfusion
      have h15 : s.n.toNat = 15 :=
        by_contra fun h15 => hlanes (appendByte_lanes_below (s := s.setInput rest) b hn h15)
      exact .inr (.inl ⟨b, hw, h15, appendByte_lanes_full (s := s.setInput rest) b h15⟩)
    | fin256 => exact .inr (.inr (.inl ⟨hw, by
      simpa only [respondOk_lanes, respondOk_buf, commandBody, setInput_lanes, setInput_params] using
        finish256_lanes_of_buf (s.setInput rest)⟩))
    | fin512 => exact .inr (.inr (.inr ⟨hw, by
      simpa only [respondOk_lanes, respondOk_buf, commandBody, setInput_lanes, setInput_params] using
        finish512_lanes_of_buf (s.setInput rest)⟩))

/-- Settles O32: of the events of a step only reset and the commands other than UPD write `D` or `DLC`, and each of
those commands has one word (`encode_of_decode`). -/
theorem digestChangesOnlyByItsWriters : Obligations.DigestChangesOnlyByItsWriters := by
  unfold Obligations.DigestChangesOnlyByItsWriters
  intro s t h hd
  rcases step_cases h with ⟨-, rfl⟩ | ⟨rest, ⟨hin, -⟩ | ⟨w, hin, ⟨-, rfl⟩ | ⟨-, c, rfl⟩ | ⟨-, i, hw, -, rfl⟩⟩⟩
  · simp at hd
  · exact ⟨rest, .inl hin⟩
  · simp at hd
  · simp at hd
  · refine ⟨rest, .inr ?_⟩
    rw [hin, ← encode_of_decode hw]
    cases i with
    | new => exact .inl rfl
    | upd b => simp [commandBody] at hd
    | fin256 => exact .inr (.inl rfl)
    | fin512 => exact .inr (.inr rfl)

end
end

section
/-! PROOFS. The invariant of 10_state.md R31: reset establishes it, every step keeps it; and the liveness of
60_exceptions.md R176. -/

namespace Sys2Proof.Machine

variable {s t : State} {i : Instr}

/-! ### A command that runs leaves the registers in order (R31 items 1 to 3) -/

theorem commandBody_count_at_rest (hr : Ready i s) : (commandBody i s).n.toNat < rateBytes := by
  cases i with
  | new => exact Nat.zero_lt_succ _
  | upd b =>
    obtain ⟨-, hn⟩ := hr.resolve_left Instr.noConfusion
    have h16 : rateBytes = 16 := rfl
    rw [commandBody, appendByte_n_toNat b hn]
    split <;> omega
  | fin256 => simp [commandBody, rateBytes]
  | fin512 => simp [commandBody, rateBytes]

theorem commandBody_phase (i : Instr) (s : State) : (commandBody i s).phase = phaseAfter i s.phase := by
  cases i with
  | new => exact freshHasher_phase s
  | upd b => exact appendByte_phase b s
  | fin256 => exact finish256_phase s
  | fin512 => exact finish512_phase s

/-- An absorbing instance shows no digest, so every byte of `D` is zero (R28, R29). -/
theorem RegistersInv.dig_blank (h : RegistersInv s) (hp : s.phase = .absorbing) (a : Nat) :
    Memory.read s.dig a = 0x00#8 :=
  h.digest_cover a (by simp [digestLength, h.absorbing_code hp])

theorem commandBody_consumed_count (hr : Ready i s) (hp : (commandBody i s).phase = .consumed) :
    (commandBody i s).n = 0#5 := by
  cases i with
  | new => exact freshHasher_n s
  | upd b =>
    obtain ⟨habsorbing, -⟩ := hr.resolve_left Instr.noConfusion
    simp [commandBody, habsorbing] at hp
  | fin256 => exact finish256_n s
  | fin512 => exact finish512_n s

/-- The digest length code a command leaves fits the phase it leaves (R29). -/
theorem commandBody_code (h : RegistersInv s) (hr : Ready i s) :
    ((commandBody i s).phase = .absorbing ∧ (commandBody i s).dlc = 0#2) ∨
      ((commandBody i s).phase = .consumed ∧ ((commandBody i s).dlc = 1#2 ∨ (commandBody i s).dlc = 2#2)) := by
  cases i with
  | new => simp [commandBody]
  | upd b =>
    obtain ⟨hp, -⟩ := hr.resolve_left Instr.noConfusion
    simp [commandBody, hp, h.absorbing_code hp]
  | fin256 => simp [commandBody]
  | fin512 => simp [commandBody]

/-- The digest bytes beyond the length a command leaves are zero (R28). -/
theorem commandBody_digest_cover (h : RegistersInv s) (hr : Ready i s) (a : Nat)
    (ha : digestLength (commandBody i s) ≤ a) : Memory.read (commandBody i s).dig a = 0x00#8 := by
  have hblank (hi : i ≠ .new) : Memory.read s.dig a = 0x00#8 := h.dig_blank (hr.resolve_left hi).1 a
  cases i with
  | new => simp [commandBody]
  | upd b => simpa [commandBody] using hblank (by simp)
  | fin256 =>
    have h32 : 32 ≤ a := by simpa [digestLength, commandBody, squeezeBytes] using ha
    by_cases h64 : a < 64
    · exact finish256_dig_upper s h32 h64
    · exact (finish256_dig_above s (Nat.le_of_not_lt h64)).trans (hblank (by simp))
  | fin512 =>
    have h64 : 64 ≤ a := by simpa [digestLength, commandBody, squeezeBytes] using ha
    exact (finish512_dig_above s h64).trans (hblank (by simp))

theorem commandBody_registers (h : RegistersInv s) (hr : Ready i s) : RegistersInv (commandBody i s) where
  count_at_rest := commandBody_count_at_rest hr
  consumed_count := commandBody_consumed_count hr
  consumed_code := fun hp => by simpa [hp] using commandBody_code h hr
  absorbing_code := fun hp => by simpa [hp] using commandBody_code h hr
  digest_cover := commandBody_digest_cover h hr
  fault_code := by simpa using h.fault_code
  code_written := by simpa using h.code_written

/-! ### The byte spaces keep their form (20_memory.md R50) -/

theorem commandBody_memory (h : MemoryInv s) (hr : Ready i s) : MemoryInv (commandBody i s) := by
  have h64 : digestBytes = 64 := rfl
  have h32 : squeezeBytes = 32 := rfl
  cases i with
  | new => exact ⟨h.buf_wf, h.buf_within, nil_wf, nil_within _⟩
  | upd b =>
    obtain ⟨-, hn⟩ := hr.resolve_left Instr.noConfusion
    constructor <;> simp only [commandBody, appendByte_buf, appendByte_dig]
    · exact write_wf _ _ h.buf_wf
    · exact write_within _ hn h.buf_within
    · exact h.dig_wf
    · exact h.dig_within
  | fin256 =>
    obtain ⟨-, hn⟩ := hr.resolve_left Instr.noConfusion
    constructor <;> simp only [commandBody, finish256_buf, finish256_dig]
    · exact padBuffer_wf h.buf_wf
    · exact padBuffer_within hn h.buf_within
    · exact zeroFill_wf _ _ (squeezeTo_wf _ _ h.dig_wf)
    · exact zeroFill_within (by omega) (squeezeTo_within _ (by omega) h.dig_within)
  | fin512 =>
    obtain ⟨-, hn⟩ := hr.resolve_left Instr.noConfusion
    constructor <;> simp only [commandBody, finish512_buf, finish512_dig]
    · exact padBuffer_wf h.buf_wf
    · exact padBuffer_within hn h.buf_within
    · exact squeezeTo_wf _ _ (squeezeTo_wf _ _ h.dig_wf)
    · exact squeezeTo_within _ (by omega) (squeezeTo_within _ (by omega) h.dig_within)

/-! ### The invariant, event by event -/

theorem resetWith_inv {c : Config} (hc : c.TagsDistinct) : Inv (State.resetWith c) where
  registers :=
    { count_at_rest := Nat.zero_lt_succ _
      consumed_count := nofun
      consumed_code := nofun
      absorbing_code := fun _ => rfl
      digest_cover := fun _ _ => rfl
      fault_code := by simp
      code_written := by simp }
  memory := ⟨nil_wf, nil_within _, nil_wf, nil_within _⟩
  response := ⟨nofun, fun _ => .inl rfl⟩
  tags := hc

theorem Inv.setInput (h : Inv s) (rest : List HostEvent) : Inv (s.setInput rest) :=
  ⟨{ h.registers with }, { h.memory with }, { h.response with }, h.tags⟩

theorem Inv.assertReset (h : Inv s) : Inv (assertReset s) := (resetWith_inv h.tags).setInput s.input

/-- A refusal shows the stored code (60_exceptions.md R172). -/
theorem Inv.refuse (h : Inv s) (he : s.err = true) : Inv (refuse s) :=
  ⟨{ h.registers with }, { h.memory with }, ⟨fun _ => rfl, fun hf => by simp [he] at hf⟩, h.tags⟩

/-- A fault sets the flag with a nonzero code, and shows that code. -/
theorem Inv.raise (h : Inv s) (c : FaultCause) : Inv (raise c s) where
  registers := { h.registers with
    fault_code := by cases c <;> simp [FaultCause.code]
    code_written := by cases c <;> simp [FaultCause.code] }
  memory := { h.memory with }
  response := ⟨fun _ => rfl, fun hf => by cases hf⟩
  tags := h.tags

theorem Inv.execute (h : Inv s) (he : s.err = false) (hr : Ready i s) : Inv (respondOk (commandBody i s)) where
  registers := { commandBody_registers h.registers hr with }
  memory := { commandBody_memory h.memory hr with }
  response := ⟨fun hf => by simp [he] at hf, fun _ => .inr rfl⟩
  tags := by simpa using h.tags

/-! ### Legal sequences (60_exceptions.md R176) -/

theorem ready_of_legalIn (hl : legalIn i s.phase = true) (hn : s.n.toNat < rateBytes) : Ready i s := by
  cases i with
  | new => exact .inl rfl
  | upd b | fin256 | fin512 => exact .inr ⟨of_decide_eq_true hl, hn⟩

/-- A sequence goes on from the state its first command leaves. -/
theorem execAll_cons_of_next (is : List Instr) (h : exec i s = .next t) : execAll (i :: is) s = execAll is t := by
  simp only [execAll, h]

theorem execAll_of_legal (is : List Instr) (hn : s.n.toNat < rateBytes) (he : s.err = false)
    (hl : legalSequence s.phase is = true) :
    ∃ t, execAll is s = .next t ∧ t.err = false ∧ t.errc = s.errc ∧ t.n.toNat < rateBytes ∧
      (is = [] ∧ t = s ∨ t.resp = some .ok) := by
  induction is generalizing s with
  | nil => exact ⟨s, rfl, he, rfl, hn, .inl ⟨rfl, rfl⟩⟩
  | cons i is ih =>
    obtain ⟨hlegal, hrest⟩ := Bool.and_eq_true_iff.mp hl
    have hr := ready_of_legalIn hlegal hn
    obtain ⟨t, ht, het, hct, hnt, hresp⟩ := ih (s := respondOk (commandBody i s)) (commandBody_count_at_rest hr)
      (by simp [he]) (by rwa [respondOk_phase, commandBody_phase])
    refine ⟨t, (execAll_cons_of_next is (exec_of_ready he hr)).trans ht, het, by simpa using hct, hnt, .inr ?_⟩
    rcases hresp with ⟨-, rfl⟩ | hok
    · exact respondOk_resp _
    · exact hok

end Sys2Proof.Machine

section
open Sys2Proof Sys2Proof.Machine

/-- Settles O28: each event of a step keeps the invariant (`step_keeps`): idling, reset, refusal, a fault, and a
command that runs, whose body keeps the registers and the byte spaces in order. -/
theorem stepKeepsTheInvariant : Obligations.StepKeepsTheInvariant := by
  unfold Obligations.StepKeepsTheInvariant
  intro s t hinv h
  exact step_keeps (fun rest hs => hs.setInput rest) (fun _ hs => hs.assertReset) (fun _ he hs => hs.refuse he)
    (fun c _ _ hs => hs.raise c) (fun _ _ he hr hs => hs.execute he hr) hinv h

/-- Settles O29. -/
theorem resetMeetsTheInvariant : Obligations.ResetMeetsTheInvariant := by
  unfold Obligations.ResetMeetsTheInvariant
  exact fun c hc => resetWith_inv hc

/-- Settles O30: a step is stopped by the count alone, and by induction on the sequence each legal command finds an
unfaulted instance at rest in a phase it is legal in, and leaves one (`execAll_of_legal`). -/
theorem legalSequencesComplete : Obligations.LegalSequencesComplete := by
  unfold Obligations.LegalSequencesComplete
  constructor
  · intro s hn
    rcases step_completes_or_overruns s with hnext | ⟨-, -, -, hover⟩
    · exact hnext
    · exact absurd hn hover
  · intro is s hn he hl
    obtain ⟨t, ht, het, hct, hnt, hresp⟩ := execAll_of_legal is hn he hl
    exact ⟨t, ht, het, hct, hnt, fun hne => hresp.resolve_left fun hnil => hne hnil.1⟩

end
end

section
/-! PROOFS. Stale buffer bytes (20_memory.md R61): two states that differ in them alone stay so, step by step. -/

namespace Sys2Proof.Machine

variable {s t s' : State} {i : Instr} {m : Memory}

/-! ### Two buffers that agree as far as a block, or a count, goes -/

/-- Two byte spaces hold the same bytes below an index. -/
def AgreeBelow (k : Nat) (m m' : Memory) : Prop := ∀ i, i < k → Memory.read m i = Memory.read m' i

theorem sameButStale_iff : SameButStale s t ↔ ∃ m, t = s.setBuf m ∧ AgreeBelow s.n.toNat s.buf m := by
  constructor
  · rintro ⟨hrest, hvalid⟩
    refine ⟨t.buf, ?_, hvalid⟩
    rw [hrest]
    rfl
  · rintro ⟨m, rfl, hvalid⟩
    exact ⟨rfl, hvalid⟩

theorem AgreeBelow.write {m m' : Memory} {k : Nat} (h : AgreeBelow k m m') (b : Byte) :
    AgreeBelow (k + 1) (Memory.write m k b) (Memory.write m' k b) := by
  intro i hi
  rw [read_write, read_write]
  split
  · rfl
  · exact h i (by omega)

theorem loadWord_eq_of_agree {m m' : Memory} (h : AgreeBelow rateBytes m m') {a : Nat} (ha : a + 8 ≤ 16) :
    loadWord m a = loadWord m' a :=
  loadWord_congr a fun i _ hi => h i (Nat.lt_of_lt_of_le hi ha)

/-- The pad overwrites every stale byte (R140 step 1). -/
theorem padBuffer_agree (hn : s.n.toNat < rateBytes) (h : AgreeBelow s.n.toNat s.buf m) :
    AgreeBelow rateBytes (padBuffer s).buf (padBuffer (s.setBuf m)).buf := by
  intro i hi
  have hn' : (s.setBuf m).n.toNat < rateBytes := hn
  rw [read_padBuffer hn, read_padBuffer hn', setBuf_n, setBuf_buf]
  by_cases hbelow : i < s.n.toNat
  · rw [if_pos hbelow, if_pos hbelow, h i hbelow]
  · rw [if_neg hbelow, if_neg hbelow, if_pos hi, if_pos hi]

/-! ### Each operation on a state with another buffer -/

theorem absorbBlock_setBuf (h : AgreeBelow rateBytes s.buf m) :
    absorbBlock (s.setBuf m) = (absorbBlock s).setBuf m := by
  have h0 := loadWord_eq_of_agree h (a := 0) (by omega)
  have h8 := loadWord_eq_of_agree h (a := 8) (by omega)
  rw [absorbBlock_eq, absorbBlock_eq, setBuf_buf, setBuf_lanes, ← h0, ← h8]
  rfl

theorem finalState_setBuf (tag : Word) (hn : s.n.toNat < rateBytes) (h : AgreeBelow s.n.toNat s.buf m) :
    finalState tag (s.setBuf m) = (finalState tag s).setBuf (padBuffer (s.setBuf m)).buf := by
  have hpad : padBuffer (s.setBuf m) = (padBuffer s).setBuf (padBuffer (s.setBuf m)).buf := rfl
  have habsorb : absorbBlock (padBuffer (s.setBuf m)) =
      (absorbBlock (padBuffer s)).setBuf (padBuffer (s.setBuf m)).buf := by
    rw [hpad]
    exact absorbBlock_setBuf (padBuffer_agree hn h)
  rw [finalState, habsorb]
  rfl

theorem squeeze_setBuf (base : Nat) (s : State) (m : Memory) :
    squeeze base (s.setBuf m) = (squeeze base s).setBuf m := rfl

theorem setDig_setBuf (v : Memory) (s : State) (m : Memory) : (s.setBuf m).setDig v = (s.setDig v).setBuf m := rfl

theorem setLanes_setBuf (v : Lanes) (s : State) (m : Memory) : (s.setBuf m).setLanes v = (s.setLanes v).setBuf m := rfl

theorem markConsumed_setBuf (c : BitVec 2) (s : State) (m : Memory) :
    markConsumed c (s.setBuf m) = (markConsumed c s).setBuf m := rfl

theorem finish256_setBuf (hn : s.n.toNat < rateBytes) (h : AgreeBelow s.n.toNat s.buf m) :
    finish256 (s.setBuf m) = (finish256 s).setBuf (padBuffer (s.setBuf m)).buf := by
  simp only [finish256, setBuf_params, finalState_setBuf _ hn h, squeeze_setBuf, setBuf_dig, setDig_setBuf,
    markConsumed_setBuf]

theorem finish512_setBuf (hn : s.n.toNat < rateBytes) (h : AgreeBelow s.n.toNat s.buf m) :
    finish512 (s.setBuf m) = (finish512 s).setBuf (padBuffer (s.setBuf m)).buf := by
  simp only [finish512, setBuf_params, finalState_setBuf _ hn h, squeeze_setBuf, setBuf_lanes, setLanes_setBuf,
    markConsumed_setBuf]

theorem appendByte_sameButStale (b : Byte) (hn : s.n.toNat < rateBytes) (h : AgreeBelow s.n.toNat s.buf m) :
    SameButStale (appendByte b s) (appendByte b (s.setBuf m)) := by
  have hpush : pushByte b (s.setBuf m) = (pushByte b s).setBuf (Memory.write m s.n.toNat b) := rfl
  have hstored := h.write b
  rcases Nat.lt_or_eq_of_le (Nat.succ_le_of_lt hn) with hbelow | hfull
  · rw [appendByte_below hbelow, appendByte_below (s := s.setBuf m) hbelow, hpush]
    refine sameButStale_iff.mpr ⟨_, rfl, ?_⟩
    rwa [pushByte_n, count_succ hn]
  · rw [appendByte_full hfull, appendByte_full (s := s.setBuf m) hfull, hpush]
    refine sameButStale_iff.mpr ⟨_, absorbBlock_setBuf ?_, fun i hi => absurd hi (Nat.not_lt_zero i)⟩
    rwa [← hfull]

theorem commandBody_sameButStale (hr : Ready i s) (h : AgreeBelow s.n.toNat s.buf m) :
    SameButStale (commandBody i s) (commandBody i (s.setBuf m)) := by
  cases i with
  | new => exact sameButStale_iff.mpr ⟨m, rfl, fun i hi => absurd hi (Nat.not_lt_zero i)⟩
  | upd b => exact appendByte_sameButStale b (hr.resolve_left Instr.noConfusion).2 h
  | fin256 =>
    obtain ⟨-, hn⟩ := hr.resolve_left Instr.noConfusion
    exact sameButStale_iff.mpr ⟨_, finish256_setBuf hn h, fun i hi => by simp [commandBody] at hi⟩
  | fin512 =>
    obtain ⟨-, hn⟩ := hr.resolve_left Instr.noConfusion
    exact sameButStale_iff.mpr ⟨_, finish512_setBuf hn h, fun i hi => by simp [commandBody] at hi⟩

/-! ### A step -/

theorem outputs_eq_of_sameButStale (h : SameButStale s t) : outputs t = outputs s := by
  obtain ⟨m, rfl, -⟩ := sameButStale_iff.mp h
  rfl

theorem exec_sameButStale (h : AgreeBelow s.n.toNat s.buf m) (hs : exec i s = .next s') :
    ∃ t', exec i (s.setBuf m) = .next t' ∧ SameButStale s' t' := by
  rcases exec_cases hs with ⟨he, rfl⟩ | ⟨he, hi, hp, rfl⟩ | ⟨he, hr, rfl⟩
  · exact ⟨_, exec_refused (s := s.setBuf m) i he, rfl, h⟩
  · exact ⟨_, exec_misuse (s := s.setBuf m) hi he hp, rfl, h⟩
  · have hbody := commandBody_sameButStale hr h
    exact ⟨_, exec_of_ready (s := s.setBuf m) he hr, congrArg respondOk hbody.rest, hbody.valid⟩

theorem present_sameButStale {w : CommandWord} (h : AgreeBelow s.n.toNat s.buf m) (hs : present w s = .next s') :
    ∃ t', present w (s.setBuf m) = .next t' ∧ SameButStale s' t' := by
  rcases decode_cases w with hw | ⟨i, hw⟩
  · cases he : s.err with
    | true =>
      cases (present_refused he).symm.trans hs
      exact ⟨_, present_refused (s := s.setBuf m) he, rfl, h⟩
    | false =>
      cases (present_reserved he hw).symm.trans hs
      exact ⟨_, present_reserved (s := s.setBuf m) he hw, rfl, h⟩
  · rw [present_of_decode hw] at hs ⊢
    exact exec_sameButStale h hs

/-- The commuting step: with another buffer that agrees below the count, the step runs the same way. -/
theorem step_sameButStale (h : AgreeBelow s.n.toNat s.buf m) (hs : step s = .next s') :
    ∃ t', step (s.setBuf m) = .next t' ∧ SameButStale s' t' := by
  cases hin : s.input with
  | nil =>
    cases (step_nil hin).symm.trans hs
    exact ⟨_, step_nil (s := s.setBuf m) hin, rfl, h⟩
  | cons e rest =>
    rw [step_cons hin] at hs
    rw [step_cons (s := s.setBuf m) hin]
    cases e with
    | reset =>
      cases hs
      exact ⟨_, rfl, rfl, fun _ _ => rfl⟩
    | command w => exact present_sameButStale (s := s.setInput rest) h hs

end Sys2Proof.Machine

section
open Sys2Proof Sys2Proof.Machine

/-- Settles O33: a step sees of the buffer what the count covers, and what it leaves covers no other byte
(`step_sameButStale`); the output ports show no byte of `B`. -/
theorem staleBytesNeverReachAnything : Obligations.StaleBytesNeverReachAnything := by
  unfold Obligations.StaleBytesNeverReachAnything
  intro s t s' hst hs
  obtain ⟨m, rfl, hagree⟩ := sameButStale_iff.mp hst
  obtain ⟨t', ht', hst'⟩ := step_sameButStale hagree hs
  exact ⟨t', ht', hst', outputs_eq_of_sameButStale hst'⟩

end
end

section
/-! PROOFS. The byte order of words, ports and digests (20_memory.md, 30_encoding.md section 9), and the message cut
into blocks (42_sponge_commands.md section 7). -/

namespace Sys2Proof.Machine

/-! ### Runs of bytes -/

theorem bytesFrom_append (m : Memory) (a j k : Nat) :
    bytesFrom m a (j + k) = bytesFrom m a j ++ bytesFrom m (a + j) k := by
  induction j generalizing a with
  | zero => simp [bytesFrom]
  | succ j ih =>
    rw [Nat.add_right_comm, bytesFrom, bytesFrom, ih, List.cons_append, Nat.add_assoc, Nat.add_comm 1 j]

theorem bytesFrom_congr {m m' : Memory} (a k : Nat)
    (h : ∀ i, a ≤ i → i < a + k → Memory.read m i = Memory.read m' i) : bytesFrom m a k = bytesFrom m' a k := by
  apply List.ext_getElem (by simp)
  intro i hi hi'
  rw [bytesFrom_length] at hi
  rw [bytesFrom_getElem, bytesFrom_getElem]
  exact h _ (by omega) (by omega)

theorem bytesFrom_eq_replicate {m : Memory} {a k : Nat} {b : Byte}
    (h : ∀ i, a ≤ i → i < a + k → Memory.read m i = b) : bytesFrom m a k = List.replicate k b := by
  apply List.ext_getElem (by simp)
  intro i hi hi'
  rw [bytesFrom_length] at hi
  rw [bytesFrom_getElem, List.getElem_replicate]
  exact h _ (by omega) (by omega)

/-- Storing at the end of a run lengthens it by that byte. -/
theorem bytesFrom_write_end (m : Memory) (k : Nat) (b : Byte) :
    bytesFrom (Memory.write m k b) 0 (k + 1) = bytesFrom m 0 k ++ [b] := by
  have hkept : bytesFrom (Memory.write m k b) 0 k = bytesFrom m 0 k :=
    bytesFrom_congr 0 k fun i _ hi => read_write_other m b (by omega)
  rw [bytesFrom_append, hkept]
  simp [bytesFrom]

/-! ### Words and their bytes (20_memory.md R51 to R53) -/

/-- Eight bytes determine a Word. -/
theorem word_eq_of_bytes {v w : Word} (h : ∀ j, j < 8 → v.extractLsb' (8 * j) 8 = w.extractLsb' (8 * j) 8) :
    v = w := by
  apply BitVec.eq_of_getLsbD_eq
  intro i hi
  have hbyte := congrArg (BitVec.getLsbD · (i % 8)) (h (i / 8) (by omega))
  simpa [BitVec.getLsbD_extractLsb', Nat.mod_lt, Nat.div_add_mod] using hbyte

theorem loadWord_storeWord (m : Memory) (a : Nat) (v : Word) : loadWord (storeWord m a v) a = v := by
  apply word_eq_of_bytes
  intro j hj
  rw [loadWord_byte _ _ hj, storeWord, read_storeBytes, if_pos (by omega), Nat.add_sub_cancel_left]

/-- Byte `i` of a port that shows `k` bytes is the byte at `a + i`. -/
theorem extractLsb'_memReadNat (m : Memory) (a : Nat) {width k i : Nat} (hwidth : width = 8 * k) (hi : i < k) :
    (BitVec.ofNat width (memReadNat m a k)).extractLsb' (8 * i) 8 = Memory.read m (a + i) := by
  subst hwidth
  apply BitVec.eq_of_toNat_eq
  have hfits : memReadNat m a k < 2 ^ (8 * k) := by
    rw [pow_mul]
    exact memReadNat_lt m a k
  rw [BitVec.extractLsb'_toNat, BitVec.toNat_ofNat, Nat.mod_eq_of_lt hfits, Nat.shiftRight_eq_div_pow, pow_mul]
  exact memReadNat_byte m a k i hi

theorem digestPort_byte (m : Memory) {i : Nat} (hi : i < digestBytes) :
    (digestPort m).extractLsb' (8 * i) 8 = Memory.read m i := by
  rw [digestPort, extractLsb'_memReadNat (width := 512) m 0 rfl hi, Nat.zero_add]

theorem memReadNat_eq_foldr (m : Memory) (a k : Nat) :
    memReadNat m a k = (bytesFrom m a k).foldr (fun b acc => b.toNat + 256 * acc) 0 := by
  induction k generalizing a with
  | zero => rfl
  | succ k ih => rw [memReadNat, bytesFrom, List.foldr_cons, ih]

theorem le64_bytesFrom (m : Memory) (a : Nat) : le64 (bytesFrom m a 8) = loadWord m a := by
  rw [le64, loadWord, memReadNat_eq_foldr]

theorem bytesFrom_eq_wordBytes {m : Memory} {a k : Nat} {v : Word}
    (h : ∀ j, j < k → Memory.read m (a + j) = v.extractLsb' (8 * j) 8) : bytesFrom m a k = wordBytes v k := by
  induction k generalizing a v with
  | zero => rfl
  | succ k ih =>
    have hlow : Memory.read m a = v.setWidth 8 := h 0 (Nat.zero_lt_succ k)
    have hrest : bytesFrom m (a + 1) k = wordBytes (v >>> 8) k := by
      apply ih
      intro j hj
      rw [Nat.add_assoc, Nat.add_comm 1 j, h (j + 1) (Nat.succ_lt_succ hj)]
      apply BitVec.eq_of_getLsbD_eq
      intro i hi
      simp [hi, show 8 + (8 * j + i) = 8 * (j + 1) + i by ring]
    rw [bytesFrom, wordBytes, hlow, hrest]

/-- A squeeze stores the serialized lanes (R140 step 5, R156). -/
theorem bytesFrom_squeezeTo (m : Memory) (base : Nat) (v : Lanes) :
    bytesFrom (squeezeTo m base v) base 32 = serialize v := by
  have hlane (i : Fin 4) : bytesFrom (squeezeTo m base v) (base + 8 * i.val) 8 = wordBytes (lane v i) 8 :=
    bytesFrom_eq_wordBytes fun j hj => read_squeezeTo_lane m base v i hj
  calc bytesFrom (squeezeTo m base v) base (8 + 8 + 8 + 8)
      = wordBytes (lane v 0) 8 ++ wordBytes (lane v 1) 8 ++ wordBytes (lane v 2) 8 ++ wordBytes (lane v 3) 8 := by
        rw [bytesFrom_append, bytesFrom_append, bytesFrom_append, ← hlane 0, ← hlane 1, ← hlane 2, ← hlane 3]
        rfl
    _ = serialize v := rfl

/-! ### A message cut into blocks (R153) -/

theorem blocksOf_append {a : List Byte} {k : Nat} (ha : a.length = rateBytes * k) (j : Nat) (b : List Byte) :
    blocksOf (k + j) (a ++ b) = blocksOf k a ++ blocksOf j b := by
  induction k generalizing a with
  | zero =>
    obtain rfl := List.eq_nil_of_length_eq_zero ha
    simp [blocksOf]
  | succ k ih =>
    rw [Nat.mul_succ] at ha
    have hdrop : (a.drop rateBytes).length = rateBytes * k := by simp [ha]
    rw [Nat.add_right_comm, blocksOf, blocksOf, List.take_append_of_le_length (by omega),
      List.drop_append_of_le_length (by omega), ih hdrop, List.cons_append]

theorem blocksOf_length (k : Nat) (m : List Byte) : (blocksOf k m).length = k := by
  induction k generalizing m with
  | zero => rfl
  | succ k ih => rw [blocksOf, List.length_cons, ih]

theorem length_of_mem_blocksOf {k : Nat} {m c : List Byte} (hm : rateBytes * k ≤ m.length) (hc : c ∈ blocksOf k m) :
    c.length = rateBytes := by
  induction k generalizing m with
  | zero => simp [blocksOf] at hc
  | succ k ih =>
    rw [Nat.mul_succ] at hm
    rcases List.mem_cons.mp hc with rfl | hc
    · rw [List.length_take]
      omega
    · exact ih (by rw [List.length_drop]; omega) hc

theorem fullBlocks_append_blocks {a : List Byte} {k : Nat} (ha : a.length = rateBytes * k) (y : List Byte) :
    fullBlocks (a ++ y) = blocksOf k a ++ fullBlocks y := by
  have hcount : (a ++ y).length / rateBytes = k + y.length / rateBytes := by
    rw [List.length_append, ha, Nat.mul_add_div (by decide)]
  rw [fullBlocks, hcount, blocksOf_append ha, fullBlocks]

theorem tailBytes_append_blocks {a : List Byte} {k : Nat} (ha : a.length = rateBytes * k) (y : List Byte) :
    tailBytes (a ++ y) = tailBytes y := by
  have hcount : rateBytes * ((a ++ y).length / rateBytes) = a.length + rateBytes * (y.length / rateBytes) := by
    rw [List.length_append, ha, Nat.mul_add_div (by decide), Nat.mul_add]
  rw [tailBytes, hcount, List.drop_length_add_append, tailBytes]

theorem fullBlocks_of_lt {y : List Byte} (h : y.length < rateBytes) : fullBlocks y = [] := by
  rw [fullBlocks, Nat.div_eq_of_lt h, blocksOf]

theorem tailBytes_of_lt {y : List Byte} (h : y.length < rateBytes) : tailBytes y = y := by
  rw [tailBytes, Nat.div_eq_of_lt h, Nat.mul_zero, List.drop_zero]

theorem fullBlocks_of_block {y : List Byte} (h : y.length = rateBytes) : fullBlocks y = [y] := by
  rw [fullBlocks, h, Nat.div_self (by decide), blocksOf, blocksOf, ← h, List.take_length]

theorem tailBytes_of_block {y : List Byte} (h : y.length = rateBytes) : tailBytes y = [] := by
  rw [tailBytes, h, Nat.div_self (by decide), Nat.mul_one, ← h, List.drop_length]

theorem tailBytes_length (m : List Byte) : (tailBytes m).length = m.length % rateBytes := by
  rw [tailBytes, List.length_drop, Nat.mod_eq_sub]

/-- A message is its full blocks and its tail. -/
theorem exists_blocks_append_tailBytes (m : List Byte) :
    ∃ (k : Nat) (a : List Byte), a.length = rateBytes * k ∧ fullBlocks m = blocksOf k a ∧ m = a ++ tailBytes m := by
  have ha : (m.take (rateBytes * (m.length / rateBytes))).length = rateBytes * (m.length / rateBytes) := by
    rw [List.length_take, Nat.min_eq_left (Nat.mul_div_le ..)]
  have hm : m = m.take (rateBytes * (m.length / rateBytes)) ++ tailBytes m := (List.take_append_drop ..).symm
  refine ⟨_, _, ha, ?_, hm⟩
  have htail : (tailBytes m).length < rateBytes := (tailBytes_length m).trans_lt (Nat.mod_lt _ (by decide))
  conv_lhs => rw [hm, fullBlocks_append_blocks ha, fullBlocks_of_lt htail, List.append_nil]

/-- Bytes that follow a message cut like bytes that follow its tail. -/
theorem fullBlocks_append (m x : List Byte) : fullBlocks (m ++ x) = fullBlocks m ++ fullBlocks (tailBytes m ++ x) := by
  obtain ⟨k, a, ha, hfull, hm⟩ := exists_blocks_append_tailBytes m
  conv_lhs => rw [hm, List.append_assoc, fullBlocks_append_blocks ha, ← hfull]

theorem tailBytes_append (m x : List Byte) : tailBytes (m ++ x) = tailBytes (tailBytes m ++ x) := by
  obtain ⟨k, a, ha, -, hm⟩ := exists_blocks_append_tailBytes m
  conv_lhs => rw [hm, List.append_assoc, tailBytes_append_blocks ha]

/-! ### The padded message (R156) -/

/-- What the pad appends to a message of a length. -/
def padding (length : Nat) : List Byte :=
  padByte :: List.replicate (rateBytes - 1 - length % rateBytes) 0x00#8

theorem pad_eq (m : List Byte) : pad m = m ++ padding m.length := rfl

theorem pad_length (m : List Byte) : (pad m).length = rateBytes * (m.length / rateBytes + 1) := by
  rw [pad_eq, List.length_append, padding, List.length_cons, List.length_replicate]
  simp only [rateBytes]
  omega

/-- The pad completes the tail to one block. -/
theorem tailBytes_append_padding_length (m : List Byte) : (tailBytes m ++ padding m.length).length = rateBytes := by
  rw [List.length_append, tailBytes_length, padding, List.length_cons, List.length_replicate]
  simp only [rateBytes]
  omega

theorem fullBlocks_pad (m : List Byte) : fullBlocks (pad m) = fullBlocks m ++ [tailBytes m ++ padding m.length] := by
  rw [pad_eq, fullBlocks_append, fullBlocks_of_block (tailBytes_append_padding_length m)]

/-- Takes the pad off: the trailing zeros, and the byte before them. -/
def unpad (p : List Byte) : List Byte := ((p.reverse.dropWhile (· == 0x00#8)).drop 1).reverse

theorem unpad_pad : Function.LeftInverse unpad pad := by
  intro m
  rw [unpad, pad_eq, padding, List.reverse_append, List.reverse_cons, List.reverse_replicate, List.append_assoc,
    List.dropWhile_append_of_pos (by simp)]
  simp [padByte]

end Sys2Proof.Machine

section
open Sys2Proof.Machine

/-- Settles O39: the pad completes the tail to one more block; it can be taken off again (`unpad_pad`). -/
theorem paddingIsInjective : Obligations.PaddingIsInjective := by
  unfold Obligations.PaddingIsInjective
  have hcount (m : List Sys2Proof.Byte) : (pad m).length / rateBytes = m.length / rateBytes + 1 := by
    rw [pad_length, Nat.mul_div_cancel_left _ (by decide)]
  refine ⟨pad_length, fun m => ⟨?count, fun c hc => length_of_mem_blocksOf (Nat.mul_div_le ..) hc⟩,
    fun m m' h => unpad_pad.injective h⟩
  case count => exact (blocksOf_length _ _).trans (hcount m)

/-- Settles O43: byte for byte, what is loaded is what was stored. -/
theorem storedWordLoadsBack : Obligations.StoredWordLoadsBack := by
  unfold Obligations.StoredWordLoadsBack
  exact loadWord_storeWord

/-- Settles O44: the port is the integer of the 64 bytes, whose digits in base 256 they are. -/
theorem digestPortShowsTheDigest : Obligations.DigestPortShowsTheDigest := by
  unfold Obligations.DigestPortShowsTheDigest
  intro s i
  exact ⟨fun hi => ⟨digestPort_byte s.dig hi, if_pos hi⟩, fun hi => if_neg (Nat.not_lt.mpr hi)⟩

end
end

section
/-! PROOFS. The hasher computes the digest of the message it received (42_sponge_commands.md sections 6 and 7), and
how often it invokes PHI (R155). -/

namespace Sys2Proof.Machine

variable {s t : State} {m : List Byte} {i : Instr}

/-! ### The block absorb is the absorb of the buffer's bytes (R130, R156) -/

theorem absorb_bytesFrom (v : Lanes) (buf : Memory) :
    absorb v (bytesFrom buf 0 16) = phi (xorRate (loadWord buf 0) (loadWord buf 8) v) := by
  have hhalves : bytesFrom buf 0 16 = bytesFrom buf 0 8 ++ bytesFrom buf 8 8 := bytesFrom_append buf 0 8 8
  rw [absorb, hhalves, List.take_left' (bytesFrom_length ..), List.drop_left' (bytesFrom_length ..), le64_bytesFrom,
    le64_bytesFrom]

theorem absorbAll_append_block (v : Lanes) (blocks : List (List Byte)) (c : List Byte) :
    absorbAll v (blocks ++ [c]) = absorb (absorbAll v blocks) c :=
  List.foldl_concat ..

/-! ### What an instance has received (10_state.md R31 item 5) -/

theorem Received.count_at_rest (h : Received m s) : s.n.toNat < rateBytes := by
  rw [h.count]
  exact Nat.mod_lt _ (by decide)

theorem received_nil (hp : s.phase = .absorbing) (hn : s.n = 0#5) (hl : s.lanes = s.params.iv) : Received [] s where
  phase := hp
  count := by simp [hn]
  lanes := hl
  bytes := by simp [hn, bytesFrom, tailBytes]

theorem Received.respondOk (h : Received m s) : Received m (respondOk s) := { h with }

/-- The buffer, after the byte is stored, holds the tail with that byte. -/
theorem Received.bytes_pushByte (h : Received m s) (b : Byte) :
    bytesFrom (pushByte b s).buf 0 (s.n.toNat + 1) = tailBytes m ++ [b] := by
  rw [pushByte_buf, bytesFrom_write_end, h.bytes]

theorem Received.tail_length (h : Received m s) (b : Byte) : (tailBytes m ++ [b]).length = s.n.toNat + 1 := by
  rw [List.length_append, tailBytes_length, ← h.count, List.length_singleton]

theorem count_append_byte (m : List Byte) (b : Byte) :
    (m ++ [b]).length % rateBytes = (m.length % rateBytes + 1) % rateBytes := by
  rw [List.length_append, List.length_singleton, Nat.mod_add_mod]

/-- UPD: a byte that does not fill the buffer lengthens the tail; the one that fills it closes a block. -/
theorem Received.appendByte (h : Received m s) (b : Byte) : Received (m ++ [b]) (appendByte b s) := by
  have hn := h.count_at_rest
  have htail := h.tail_length b
  rcases Nat.lt_or_eq_of_le (Nat.add_one_le_of_lt hn) with hbelow | hfull
  · have hlt := htail.trans_lt hbelow
    rw [appendByte_below hbelow]
    constructor
    · exact h.phase
    · rw [count_append_byte, ← h.count, pushByte_n, count_succ hn, Nat.mod_eq_of_lt hbelow]
    · rw [fullBlocks_append, fullBlocks_of_lt hlt, List.append_nil]
      exact h.lanes
    · rw [tailBytes_append, tailBytes_of_lt hlt, pushByte_n, count_succ hn, h.bytes_pushByte]
  · have hblock := htail.trans hfull
    rw [appendByte_full hfull]
    constructor
    · exact h.phase
    · rw [count_append_byte, ← h.count, hfull, Nat.mod_self]
      rfl
    · have hbytes : bytesFrom (pushByte b s).buf 0 16 = tailBytes m ++ [b] := by
        rw [← h.bytes_pushByte b, hfull]
        rfl
      rw [absorbBlock_lanes, ← absorb_bytesFrom, hbytes, fullBlocks_append, fullBlocks_of_block hblock,
        absorbAll_append_block, absorbBlock_params, pushByte_params, ← h.lanes, pushByte_lanes]
    · rw [tailBytes_append, tailBytes_of_block hblock]
      rfl

theorem exec_new_received (he : s.err = false) :
    ∃ t, exec .new s = .next t ∧ t.err = false ∧ t.params = s.params ∧ Received [] t :=
  ⟨_, exec_new_runs he, by simp [he], rfl, received_nil rfl rfl rfl⟩

theorem exec_upd_received (b : Byte) (he : s.err = false) (h : Received m s) :
    ∃ t, exec (.upd b) s = .next t ∧ t.err = false ∧ t.params = s.params ∧ Received (m ++ [b]) t :=
  ⟨_, exec_upd_runs b he h.phase h.count_at_rest, by simp [he], by simp, (h.appendByte b).respondOk⟩

theorem execAll_update_received (bytes : List Byte) (he : s.err = false) (h : Received m s) :
    ∃ t, execAll (expandUpdate bytes) s = .next t ∧ t.err = false ∧ t.params = s.params ∧ Received (m ++ bytes) t := by
  induction bytes generalizing m s with
  | nil => exact ⟨s, rfl, he, rfl, by rwa [List.append_nil]⟩
  | cons b bytes ih =>
    obtain ⟨u, hu, heu, hpu, hru⟩ := exec_upd_received b he h
    obtain ⟨t, ht, het, hpt, hrt⟩ := ih heu hru
    exact ⟨t, (execAll_cons_of_next _ hu).trans ht, het, hpt.trans hpu, by simpa using hrt⟩

/-- NEW, the bytes, and a last command: that command finds the message received (R151, R152). -/
theorem execAll_hash (m : List Byte) (i : Instr) (he : s.err = false) :
    ∃ u, execAll (.new :: (expandUpdate m ++ [i])) s = execAll [i] u ∧ u.err = false ∧ u.params = s.params ∧
      Received m u := by
  obtain ⟨t, ht, het, hpt, hrt⟩ := exec_new_received he
  obtain ⟨u, hu, heu, hpu, hru⟩ := execAll_update_received m het hrt
  exact ⟨u, (execAll_cons_of_next _ ht).trans (execAll_append_of_next _ hu), heu, hpu.trans hpt, hru⟩

/-! ### Finalization (R140, R145, R156) -/

theorem Received.bytes_padBuffer (h : Received m s) :
    bytesFrom (padBuffer s).buf 0 16 = tailBytes m ++ padding m.length := by
  have hn := h.count_at_rest
  have hn16 : s.n.toNat < 16 := hn
  have hkept : bytesFrom (padBuffer s).buf 0 s.n.toNat = tailBytes m := by
    rw [← h.bytes]
    exact bytesFrom_congr 0 _ fun i _ hi => read_padBuffer_below hn (by omega)
  have hzeros : bytesFrom (padBuffer s).buf (s.n.toNat + 1) (15 - s.n.toNat) = List.replicate (15 - s.n.toNat) 0x00#8 :=
    bytesFrom_eq_replicate fun i hi hi' => read_padBuffer_above hn hi (show i < 16 by omega)
  have hpadding : padding m.length = padByte :: List.replicate (15 - s.n.toNat) 0x00#8 := by
    rw [h.count]
    rfl
  calc bytesFrom (padBuffer s).buf 0 16
      = bytesFrom (padBuffer s).buf 0 (s.n.toNat + (15 - s.n.toNat + 1)) := by
        congr 1
        omega
    _ = tailBytes m ++ padding m.length := by
        rw [bytesFrom_append, hkept, Nat.zero_add, bytesFrom, read_padBuffer_at hn, hzeros, hpadding]

theorem Received.finalState_lanes (h : Received m s) (tag : Word) :
    (finalState tag s).lanes = taggedState s.params.iv tag m := by
  rw [Machine.finalState_lanes, ← absorb_bytesFrom, h.bytes_padBuffer, h.lanes, taggedState, absorbPadded,
    fullBlocks_pad, absorbAll_append_block]

theorem digestOf_length (s : State) : (digestOf s).length = digestLength s := bytesFrom_length ..

theorem digestOf_respondOk (s : State) : digestOf (respondOk s) = digestOf s := rfl

theorem digestOf_finish256 (s : State) : digestOf (finish256 s) = serialize (finish256 s).lanes := by
  rw [← bytesFrom_squeezeTo s.dig 0]
  refine bytesFrom_congr 0 32 fun i _ hi => ?_
  have hbelow : ¬ squeezeBytes ≤ i := Nat.not_le.mpr (by simpa using hi : i < 32)
  rw [finish256_dig, read_zeroFill, if_neg fun hfill => hbelow hfill.1, finish256_lanes]

theorem digestOf_finish512 (s : State) : digestOf (finish512 s) =
    serialize (finalState s.params.tag512 s).lanes ++ serialize (phi (finalState s.params.tag512 s).lanes) := by
  have hlower : bytesFrom (finish512 s).dig 0 32 = serialize (finalState s.params.tag512 s).lanes := by
    rw [← bytesFrom_squeezeTo s.dig 0, finish512_dig]
    refine bytesFrom_congr 0 32 fun i _ hi => read_squeezeTo_below _ (by simpa using hi : i < 32)
  have hupper : bytesFrom (finish512 s).dig 32 32 = serialize (phi (finalState s.params.tag512 s).lanes) := by
    rw [finish512_dig]
    exact bytesFrom_squeezeTo _ 32 _
  rw [← hlower, ← hupper]
  exact bytesFrom_append (finish512 s).dig 0 32 32

/-! ### PHI invocations (R155) -/

/-- The micro-operations listed for a command give the lanes it leaves. -/
theorem commandBody_lanes (hr : Ready i s) : (commandBody i s).lanes = runMicroOps (laneOps i s) s.lanes := by
  cases i with
  | new => rfl
  | upd b =>
    obtain ⟨-, hn⟩ := hr.resolve_left Instr.noConfusion
    by_cases hfull : s.n.toNat + 1 = rateBytes
    · rw [laneOps_upd_full hfull, runMicroOps_absorbOps, commandBody, appendByte_full hfull, absorbBlock_lanes,
        pushByte_lanes]
    · rw [laneOps_upd_below hfull, runMicroOps_nil, commandBody,
        appendByte_lanes_below b hn fun h15 => hfull (congrArg Nat.succ h15)]
  | fin256 =>
    rw [laneOps, runMicroOps_append, runMicroOps_absorbOps, commandBody, finish256_lanes, finalState_lanes]
    rfl
  | fin512 =>
    rw [laneOps, runMicroOps_append, runMicroOps_absorbOps, commandBody, finish512_lanes, finalState_lanes]
    rfl

theorem phiInvocations_upd (b : Byte) (s : State) : phiInvocations (.upd b) s = if s.n.toNat = 15 then 1 else 0 := by
  by_cases h15 : s.n.toNat = 15
  · rw [phiInvocations, laneOps_upd_full (congrArg Nat.succ h15), if_pos h15]
    rfl
  · rw [phiInvocations, laneOps_upd_below fun h => h15 (Nat.succ_injective h), if_neg h15]
    rfl

theorem phiCount_cons (is : List Instr) (he : s.err = false) (hr : Ready i s) :
    phiCount (i :: is) s = phiInvocations i s + phiCount is (respondOk (commandBody i s)) := by
  simp only [phiCount, exec_of_ready he hr, respondOk_resp, if_true]

/-- The bytes fill the buffer once for every 16 counted from where it stands, and the last command adds its own
invocations. -/
theorem phiCount_update {c : Nat} (m : List Byte) (hlast : ∀ u, phiInvocations i u = c) (he : s.err = false)
    (hp : s.phase = .absorbing) (hn : s.n.toNat < rateBytes) :
    phiCount (expandUpdate m ++ [i]) s = (s.n.toNat + m.length) / 16 + c := by
  induction m generalizing s with
  | nil =>
    have hn16 : s.n.toNat < 16 := hn
    rw [expandUpdate, List.nil_append, phiCount_cons _ he (.inr ⟨hp, hn⟩), hlast, phiCount, List.length_nil]
    omega
  | cons b m ih =>
    have hr : Ready (.upd b) s := .inr ⟨hp, hn⟩
    have hrest := ih (s := respondOk (commandBody (.upd b) s)) (by simp [he]) (by simp [commandBody, hp])
      (commandBody_count_at_rest hr)
    rw [expandUpdate, List.cons_append, phiCount_cons _ he hr, hrest, phiInvocations_upd, respondOk_n, commandBody,
      appendByte_n_toNat b hn, List.length_cons]
    split <;> omega

theorem phiCount_hash {c : Nat} (m : List Byte) (hlast : ∀ u, phiInvocations i u = c) (he : s.err = false) :
    phiCount (.new :: (expandUpdate m ++ [i])) s = m.length / 16 + c := by
  have hr : Ready .new s := .inl rfl
  have hnone : phiInvocations .new s = 0 := rfl
  have hrest := phiCount_update (s := respondOk (commandBody .new s)) m hlast (by simp [he]) rfl
    (commandBody_count_at_rest hr)
  rw [phiCount_cons _ he hr, hnone, hrest]
  simp [commandBody]

end Sys2Proof.Machine

section
open Sys2Proof Sys2Proof.Machine

/-- Settles O36: FIN256 finds the message received (`execAll_hash`), so the padded buffer is the last block of the
padded message (`Received.finalState_lanes`) and the digest is the serialized lanes. -/
theorem hashComputesHash256 : Obligations.HashComputesHash256 := by
  unfold Obligations.HashComputesHash256
  intro m s he
  obtain ⟨u, hu, heu, hpu, hru⟩ := execAll_hash m .fin256 he
  have hdigest : digestOf (respondOk (finish256 u)) = hash256 s.params m := by
    rw [digestOf_respondOk, digestOf_finish256, finish256_lanes, hru.finalState_lanes, hpu, hash256]
  refine ⟨respondOk (finish256 u), hu.trans ?run, hdigest, by simp [digestOf_length, digestLength, squeezeBytes, heu]⟩
  case run => exact execAll_cons_of_next _ (exec_fin256_runs heu hru.phase hru.count_at_rest)

/-- Settles O37: as O36, with the second squeeze one PHI later. -/
theorem hash512ComputesHash512 : Obligations.Hash512ComputesHash512 := by
  unfold Obligations.Hash512ComputesHash512
  intro m s he
  obtain ⟨u, hu, heu, hpu, hru⟩ := execAll_hash m .fin512 he
  have hdigest : digestOf (respondOk (finish512 u)) = hash512 s.params m := by
    rw [digestOf_respondOk, digestOf_finish512, hru.finalState_lanes, hpu, hash512]
  refine ⟨respondOk (finish512 u), hu.trans ?run, hdigest, by simp [digestOf_length, digestLength, squeezeBytes, heu]⟩
  case run => exact execAll_cons_of_next _ (exec_fin512_runs heu hru.phase hru.count_at_rest)

/-- Settles O35: NEW and reset start the empty message, UPD adds its byte (`Received.appendByte`). -/
theorem receivedMessageInvariant : Obligations.ReceivedMessageInvariant := by
  unfold Obligations.ReceivedMessageInvariant
  refine ⟨fun c => received_nil rfl rfl rfl, fun s he => ?new, fun m b s he h => ?upd⟩
  case new =>
    obtain ⟨t, ht, -, -, hrt⟩ := exec_new_received he
    exact ⟨t, ht, hrt⟩
  case upd =>
    obtain ⟨t, ht, het, -, hrt⟩ := exec_upd_received b he h
    exact ⟨t, ht, het, hrt⟩

/-- Settles O40: a command answered OK ran, and its micro-operations give its lanes (`commandBody_lanes`); by induction
on the message, every 16th byte adds one invocation (`phiCount_update`). -/
theorem phiInvocationCounts : Obligations.PhiInvocationCounts := by
  unfold Obligations.PhiInvocationCounts
  refine ⟨fun i s t h hok => ?lanes, fun s => ⟨rfl, fun b => phiInvocations_upd b s, rfl, rfl⟩,
    fun m s he => ⟨phiCount_hash m (fun _ => rfl) he, phiCount_hash m (fun _ => rfl) he⟩⟩
  case lanes =>
    obtain ⟨-, hr, rfl⟩ := exec_ok h hok
    exact commandBody_lanes hr

end
end
